-- ==== Sys2Proof/Word.lean ====
section
/-! DEFINITION. The words the spec treats as bits: octets of frames and of the image, ADC samples, line code groups. -/

namespace Sys2Proof

/-- One octet of a frame or of the calibration image. -/
abbrev Byte := BitVec 8

/-- One signed sample of a receive path's converter, −2048 to 2047 (R24). -/
abbrev Sample := BitVec 12

/-- Ten line bits of the link, bit 9 the first on the line (R140). -/
abbrev Pattern := BitVec 10

end Sys2Proof
end

