-- ==== Sys2Proof/Syntax.lean ====
section
/-! DEFINITION. The commands of the block: one constructor per row of spec/opcode_table.json, with its operands. -/

namespace Sys2Proof

/-- The two pens (R14). -/
inductive Chan where
  | A
  | B
  deriving DecidableEq, Repr

/-- A frequency index 0 to 3 (R14). -/
abbrev Freq := Fin 4

/-- The seven strap pins as sampled (R3). -/
structure Straps where
  col : Fin 8
  row : Fin 4
  mirrorX : Bool
  mirrorY : Bool
  deriving DecidableEq, Repr

/-- The four samples one receive path takes in one period (R24). -/
structure Quad where
  s0 : Sample
  s1 : Sample
  s2 : Sample
  s3 : Sample
  deriving DecidableEq, Repr

/-- One period of LISTEN: the samples of the sixteen receive paths, X paths 0 to 7 and then Y paths 0 to 7. -/
abbrev Period := List Quad

/-- What the sixteen receive paths had sampled when a rise cut a listen short: the periods completed, and the samples each path had taken of the next one (R25, R28). -/
structure Sampled where
  periods : List Period
  cut : List (List Sample)
  deriving DecidableEq, Repr

/--
The commands, in the table's order.

`dt` is the time that passes before an event from outside, in the model's unit of time (log 2); an expiry or the
end of a phase carries none, because its moment is in the state.
-/
inductive Instr where
  /-- POWER_ON_RESET (R168). -/
  | powerOnReset (dt : Nat)
  /-- PIN_RESET (R168). -/
  | pinReset (dt : Nat)
  /-- RESET_END (R165): the straps as the pins stand. -/
  | resetEnd (dt : Nat) (straps : Straps)
  /-- IMAGE_LOADED (R162): the octets the EEPROM gave. -/
  | imageLoaded (octets : List Byte)
  /-- DRIVE_END (R16): whether foreign excitation at the sequence's frequency is felt as the mask lifts (R27). -/
  | driveEnd (foreign : Bool)
  /-- SETTLE_END (R16). -/
  | settleEnd
  /-- LISTEN_END (R16): the samples of the listen; a fall taken before the grant that follows (R35). -/
  | listenEnd (periods : List Period) (fall : Option Freq)
  /-- DAMP_END (R22): foreign excitation as the mask lifts (R27); a fall taken before the grant (R35). -/
  | dampEnd (foreign : Bool) (fall : Option Freq)
  /-- FIELD_RISE (R27): the index; what a listen had sampled (R25, R28); a fall taken before a grant that follows (R35). -/
  | fieldRise (dt : Nat) (freq : Freq) (sampled : Sampled) (fall : Option Freq)
  /-- FIELD_FALL (R27). -/
  | fieldFall (dt : Nat) (freq : Freq)
  /-- REFRESH_TIMER_EXPIRY (R45). -/
  | refreshTimerExpiry
  /-- DORMANT_TIMER_EXPIRY (R94). -/
  | dormantTimerExpiry
  /-- SEEK_TIMER_EXPIRY (R96). -/
  | seekTimerExpiry
  /-- BACKOFF_TIMER_EXPIRY (R100). -/
  | backoffTimerExpiry
  /-- CLAIM_TIMER_EXPIRY (R105). -/
  | claimTimerExpiry (ch : Chan)
  /-- DEFER_TIMER_EXPIRY (R108). -/
  | deferTimerExpiry (ch : Chan)
  /-- REPORT_TIMER_EXPIRY (R111). -/
  | reportTimerExpiry (ch : Chan)
  /-- BARRIER_TIMER_EXPIRY (R114). -/
  | barrierTimerExpiry (ch : Chan)
  /-- BORDER_TIMER_EXPIRY (R118). -/
  | borderTimerExpiry (ch : Chan)
  /-- YIELD_TIMER_EXPIRY (R129). -/
  | yieldTimerExpiry (ch : Chan)
  /-- AGE_TIMER_EXPIRY (R124). -/
  | ageTimerExpiry (ch : Chan)
  /-- VIEW_TIMER_EXPIRY (R135). -/
  | viewTimerExpiry (ch : Chan)
  /-- LINK_IN_DOWN (R141). -/
  | linkInDown (dt : Nat)
  /-- LINK_IN_UP (R141): the line code groups received. -/
  | linkInUp (dt : Nat) (groups : List Pattern)
  /-- SIGHTING (R104): the content octets after the kind. -/
  | sighting (dt : Nat) (body : List Byte)
  /-- NOTICE (R121): the content octets after the kind. -/
  | notice (dt : Nat) (body : List Byte)
  /-- BORDER (R117): the content octets after the kind. -/
  | border (dt : Nat) (body : List Byte)
  /-- REPORT (R134): the content octets after the kind. -/
  | report (dt : Nat) (body : List Byte)
  /-- YIELD (R130): the content octets after the kind. -/
  | yield (dt : Nat) (body : List Byte)
  /-- TAKE (R132): the content octets after the kind. -/
  | take (dt : Nat) (body : List Byte)
  /-- LOST (R138): the content octets after the kind. -/
  | lost (dt : Nat) (body : List Byte)
  /-- RESTART (R167): the content octets after the kind. -/
  | restart (dt : Nat) (body : List Byte)
  /-- NOTICE_RETURN (R114): the content octets after the origin, which is the tile's own index. -/
  | noticeReturn (dt : Nat) (rest : List Byte)
  /-- SIGHTING_RETURN (R105): the content octets after the origin, which is the tile's own index. -/
  | sightingReturn (dt : Nat) (rest : List Byte)
  /-- OWN_FRAME_REMOVED (R144): the kind and the content octets after the origin, which is the tile's own index. -/
  | ownFrameRemoved (dt : Nat) (kind : Byte) (rest : List Byte)
  /-- UNKNOWN_KIND_FRAME (R155): all the content octets. -/
  | unknownKindFrame (dt : Nat) (octets : List Byte)
  /-- FORWARD_FRAME_SEND (R147). -/
  | forwardFrameSend (dt : Nat)
  /-- OWN_FRAME_SEND (R149). -/
  | ownFrameSend (dt : Nat)
  /-- FRAME_RECEPTION_DISCARD (R142): the line code groups received. -/
  | frameReceptionDiscard (dt : Nat) (groups : List Pattern)
  deriving DecidableEq, Repr

end Sys2Proof
end

