-- ==== Sys2Proof/Decode.lean ====
section
/-! DEFINITION. The decoder the host asks about. The table gives no row any bits, so there is nothing to decode. -/

namespace Sys2Proof

/-- The command a word spells by the table's bits: none, as no row of spec/opcode_table.json has bits (log 20). -/
def decodeTableWord (_nbits _w : Nat) : Option Instr := none

end Sys2Proof
end

