-- ==== Sys2Proof/Config.lean ====
section
/-! DEFINITION. The settings a tile takes from its calibration image, and the values of the state for which the spec gives no reset value. -/

namespace Sys2Proof

/-- The settings taken into use from the calibration image (R161, R164). -/
structure Settings where
  /-- Surface extent, 1 to 6 columns. -/
  columns : Nat
  /-- Surface extent, 1 to 4 rows. -/
  rows : Nat
  /-- Whether channel B is enabled beside channel A. -/
  enableB : Bool
  /-- Listen length L in periods: 8, 16 or 32. -/
  listenLength : Nat
  /-- Report interval code, 4 to 40: the interval in steps of 250 µs. -/
  intervalCode : Nat
  /-- History length M, 1 to 8. -/
  historyLength : Nat
  findThreshold : Nat
  lossThreshold : Nat
  tiltThreshold : Nat
  /-- AGC low target. -/
  agcTarget : Nat
  /-- Coil separation H in surface units, 400 to 1600. -/
  separation : Nat
  /-- Pressure offset q0 of channels A and B, −2048 to 2047. -/
  offsetA : Int
  offsetB : Int
  /-- Pressure gain kp of channels A and B, 16 to 1023. -/
  gainA : Nat
  gainB : Nat
  contactDown : Nat
  contactUp : Nat
  /-- Trim octets of tile loops 0 to 79. -/
  trims : List Nat
  /-- Dead tile loops, each below 80 and listed once, at most 8. -/
  dead : List Nat
  deriving DecidableEq, Repr

/-- The settings of the default image (R161). -/
def Config.defaultSettings : Settings where
  columns := 4
  rows := 3
  enableB := false
  listenLength := 16
  intervalCode := 10
  historyLength := 4
  findThreshold := 6000
  lossThreshold := 3000
  tiltThreshold := 4000
  agcTarget := 20000
  separation := 900
  offsetA := 0
  offsetB := 0
  gainA := 256
  gainB := 256
  contactDown := 24
  contactUp := 12
  trims := List.replicate 80 128
  dead := []

/-- DESIGN CHOICE (log 4), unsafe: the settings held from power-on until the image has been read; nothing uses them. -/
def Config.settingsAtPowerOn : Settings := Config.defaultSettings

/-- DESIGN CHOICE (log 4), unsafe: the straps held from power-on until they are sampled; nothing uses them. -/
def Config.strapsAtPowerOn : Straps where
  col := 0
  row := 0
  mirrorX := false
  mirrorY := false

/-- DESIGN CHOICE (log 4), unsafe: the backoff LFSR from power-on until it is seeded (R101), the seed of tile 0. -/
def Config.lfsrAtPowerOn : Nat := 1

/-- DESIGN CHOICE (log 4), unsafe: the model's clock at power-on. -/
def Config.clockAtPowerOn : Nat := 0

/-- The power-on reset hold of 2 ms (R168), in the model's unit of 1/495040 µs (log 2). -/
def Config.powerOnHold : Nat := 495040 * 2000

/-- A free value (log 23): what the data pin to the EEPROM carries at a moment at which no bit is sent; R162 states it only for the bits sent. -/
opaque Config.idleData : Nat → Bool

end Sys2Proof
end

