-- ==== Sys2Proof/Machine/State.lean ====
section
/-! DEFINITION. Everything the spec gives the tile controller to hold, as plain data, and its value after reset. -/

namespace Sys2Proof.Machine

/-- The two axes of the surface. -/
inductive Axis where
  | X
  | Y
  deriving DecidableEq, Repr

/-- The two sides of an axis (R10, R60). -/
inductive Side where
  | low
  | high
  deriving DecidableEq, Repr

/-- The two coils of a pen (R14). -/
inductive Coil where
  | tip
  | collar
  deriving DecidableEq, Repr

/-- The tile mode (R93). -/
inductive Mode where
  | start
  | active
  | dormant
  | outside
  deriving DecidableEq, Repr

/-! ### Frames (R155 to R160) -/

/-- One want of a NOTICE: its side and its count (R159). -/
structure WantField where
  side : Option Side
  count : Nat
  deriving DecidableEq, Repr

/-- The fifteen flags of a REPORT (R158). -/
structure Flags where
  tipDown : Bool := false
  positionHeld : Bool := false
  pressureHeld : Bool := false
  tiltHeld : Bool := false
  tiltLimited : Bool := false
  edgeX : Bool := false
  edgeY : Bool := false
  saturated : Bool := false
  weak : Bool := false
  disturbed : Bool := false
  ringFault : Bool := false
  baselineStale : Bool := false
  hoverFiltered : Bool := false
  imageDefaults : Bool := false
  handover : Bool := false
  deriving DecidableEq, Repr

/-- The fields of a REPORT (R157). -/
structure Report where
  ch : Chan
  level : Nat
  cycle : Nat
  x : Nat
  y : Nat
  pressure : Nat
  tiltX : Int
  tiltY : Int
  flags : Flags
  drop : Nat
  overrun : Nat
  deriving DecidableEq, Repr

/-- The fields of a BORDER (R160); the amplitude places hold the amplitudes divided by 4. -/
structure Border where
  ch : Chan
  holder : Nat
  cycle : Nat
  axis : Axis
  count : Nat
  collarAbsent : Bool
  tipClipped : Bool
  collarClipped : Bool
  first : Nat
  tip : List Nat
  collar : List Nat
  deriving DecidableEq, Repr

/-- The fields of a YIELD (R159). -/
structure YieldFields where
  ch : Chan
  target : Nat
  cycle : Nat
  x : Nat
  y : Nat
  level : Nat
  contact : Bool
  pressure : Nat
  deriving DecidableEq, Repr

/-- A frame by its fields, without header and CRC. -/
inductive Frame where
  | sighting (ch : Chan) (strength x y : Nat)
  | notice (ch : Chan) (cycle strength : Nat) (wantX wantY : WantField)
  | border (b : Border)
  | report (r : Report)
  | yield (f : YieldFields)
  /-- `releaser` is the field the spec calls "from". -/
  | take (ch : Chan) (releaser cycle : Nat)
  | lost (ch : Chan) (cycle : Nat)
  | restart
  deriving DecidableEq, Repr

/-! ### Engine and arbiter (R15 to R39) -/

/-- The engine's states other than IDLE (R15). -/
inductive Phase where
  | drive
  | settle
  | listen
  | damp
  deriving DecidableEq, Repr

/-- The kind of a sequence with its requester (R15): a channel of the tracker, the arming record of the channel a captured frequency belongs to, or the baseline unit with the slot served (R46). -/
inductive Job where
  | tip (ch : Chan)
  | collar (ch : Chan)
  | seekX (ch : Chan)
  | seekY (ch : Chan)
  | capture (ch : Chan) (coil : Coil)
  | baseline (slot : Nat)
  deriving DecidableEq, Repr

/-- The record of the sequence in progress (R15); its frequency index follows from the job. -/
structure Sequence where
  job : Job
  /-- Local X loops driven; empty for an undriven sequence. -/
  loops : List Nat
  level : Nat
  windowX : Nat
  windowY : Nat
  disturbed : Bool
  abandoned : Bool
  deriving DecidableEq, Repr

/-- An engine at work: the phase, the moment it ends, the sequence record. -/
structure Running where
  phase : Phase
  ends : Nat
  seq : Sequence
  deriving DecidableEq, Repr

/-- A receive path (R23 to R25). -/
structure Path where
  i : Int
  q : Int
  clipped : Bool
  deriving DecidableEq, Repr

/-- The engine (R15, R23): IDLE when nothing runs; paths 0 to 7 are on X, 8 to 15 on Y. -/
structure Engine where
  running : Option Running
  paths : List Path
  deriving DecidableEq, Repr

/-- The field detector's state at one frequency index (R27). -/
inductive Detector where
  | quiet
  | present
  | masked
  deriving DecidableEq, Repr

/-- What a waiting request asks for (R32). -/
inductive Ask where
  | tip (windowX windowY : Nat)
  | collar (windowX windowY : Nat)
  | seekX (group : Nat)
  /-- The surface X loop to drive, the X group and the Y group. -/
  | seekY (loop groupX groupY : Nat)
  deriving DecidableEq, Repr

/-- A waiting request of a channel (R32); its place in the queue is its order of arrival. -/
structure Request where
  ch : Chan
  ask : Ask
  deriving DecidableEq, Repr

/-! ### Baseline unit (R41 to R54) -/

/-- A record of the baseline table (R41) with its sweep marks (R50). -/
structure Floor where
  value : Nat
  refreshed : Option Nat
  pass1 : Bool
  pass2 : Bool
  deriving DecidableEq, Repr

/-- The baseline unit. -/
structure Baseline where
  /-- 320 records: frequency index × 80 + tile loop. -/
  table : List Floor
  counter : Nat
  /-- The pending count. -/
  owed : Nat
  pass : Nat
  sweeping : Bool
  timer : Option Nat
  deriving DecidableEq, Repr

/-! ### Profile builder (R57 to R72) -/

/-- Where a profile entry comes from (R65). -/
inductive Source where
  | own
  | border
  | filled
  deriving DecidableEq, Repr

/-- An entry of a profile (R65). -/
structure Entry where
  loop : Nat
  amp : Nat
  source : Source
  clipped : Bool
  deriving DecidableEq, Repr

/-- A border want of the cycle record (R60). -/
structure Want where
  side : Side
  count : Nat
  supplier : Nat
  deriving DecidableEq, Repr

/-- The strongest own tip X path with its I and Q sums (R66); no loop when the window holds no live X loop. -/
structure Strongest where
  loop : Option Nat
  i : Int
  q : Int
  deriving DecidableEq, Repr

/-- The cycle record (R58); a want is none when its count is 0. -/
structure CycleRecord where
  number : Nat
  windowX : Nat
  windowY : Nat
  wantX : Option Want
  wantY : Option Want
  tipX : List Entry
  tipY : List Entry
  collarX : List Entry
  collarY : List Entry
  strongest : Option Strongest
  stale : Bool
  edgeX : Bool
  edgeY : Bool
  collarBuilt : Bool
  deriving DecidableEq, Repr

/-! ### Pen estimator (R73) -/

/-- The pen record; the history ring's count is the number of positions held. -/
structure Pen where
  peakX : Nat
  peakY : Nat
  down : Bool
  weakCount : Nat
  history : List (Nat × Nat)
  writeIndex : Nat
  lastX : Nat
  lastY : Nat
  lastPressure : Nat
  lastTiltX : Int
  lastTiltY : Int
  deriving DecidableEq, Repr

/-! ### Channel tracker -/

/-- The claim record (R103). -/
structure Claim where
  strength : Nat
  coarseX : Nat
  coarseY : Nat
  /-- The best other sighting: its strength and its origin. -/
  best : Option (Nat × Nat)
  timer : Nat
  deriving DecidableEq, Repr

/-- A channel's state with the small records that belong to it (R95). -/
inductive ChanState where
  /-- No state: in START, in OUTSIDE, and for a channel not enabled (R14, R95). -/
  | absent
  | seek
  | defer (timer : Nat)
  | claim (c : Claim)
  | hold
  | yield (timer : Nat)
  /-- The holder view: the holder's index and the view timer (R133). -/
  | standby (holder timer : Nat)
  deriving DecidableEq, Repr

/-- The phases of a cycle in progress (R110). -/
inductive CyclePhase where
  | noticeWait
  | tip
  | collar
  | borderWait
  deriving DecidableEq, Repr

/-- A cycle in progress (R110). -/
structure Cycle where
  phase : CyclePhase
  attempt : Nat
  ringFault : Bool
  abandoned : Bool
  barrier : Option Nat
  border : Option Nat
  /-- Whether the expected BORDER frame of each axis has been accepted (R117). -/
  gotX : Bool
  gotY : Bool
  /-- First of a hold entered by a take (R119). -/
  handover : Bool
  deriving DecidableEq, Repr

/-- The cycle state of a held channel (R110). -/
structure CycleState where
  /-- The report timer; always running while the cycle state exists (R111). -/
  timer : Nat
  /-- The number of the latest cycle begun. -/
  number : Option Nat
  /-- The number the first cycle takes, and whether a take began the hold (R112). -/
  firstNumber : Nat
  byTake : Bool
  current : Option Cycle
  overrun : Nat
  spacing : Nat
  deriving DecidableEq, Repr

/-- What an arming record holds of one captured coil (R121): amplitudes and clipped marks of the wanted loops. -/
abbrev Capture := List (Nat × Bool)

/-- An arming record (R121); a coil's captured mark is set when its capture is there. -/
structure Arming where
  holder : Nat
  cycle : Nat
  axis : Axis
  /-- The side of this tile on which the edge group lies. -/
  side : Side
  first : Nat
  count : Nat
  tip : Option Capture
  collar : Option Capture
  timer : Nat
  /-- The model's own (log 14): the capture in progress was started for this record. -/
  capturing : Bool
  deriving DecidableEq, Repr

/-- What the tile keeps for one channel. -/
structure Channel where
  state : ChanState
  level : Nat
  lastStrength : Nat
  record : Option CycleRecord
  pen : Option Pen
  cycles : Option CycleState
  /-- A cycle abandoned while its sequence still runs (R120). -/
  abandoned : Option Cycle
  arming : Option Arming
  deriving DecidableEq, Repr

/-- The stage of a seek pass (R96). -/
inductive Stage where
  /-- The position in the X order. -/
  | x (pos : Nat)
  /-- Position in the X order, X group, X peak loop, its strength, position in the Y order. -/
  | y (pos group peak strength posY : Nat)
  deriving DecidableEq, Repr

/-- The pass record (R96). -/
structure Pass where
  ch : Chan
  stage : Stage
  deriving DecidableEq, Repr

/-- The seek scheduler with the backoff LFSR (R96, R101). -/
structure Seek where
  pass : Option Pass
  timer : Option Nat
  backoff : Option Nat
  turn : Chan
  lfsr : Nat
  deriving DecidableEq, Repr

/-! ### Tile link (R140 to R154) -/

/-- A frame put on the line (R147, R149). -/
structure Sent where
  octets : List Byte
  /-- Set for an own frame, clear for a forwarded one. -/
  own : Bool
  start : Nat
  /-- The running disparity before its start symbol: set when positive (R140). -/
  disparity : Bool
  deriving DecidableEq, Repr

/-- The tile link. -/
structure Link where
  up : Bool
  count : Nat
  silence : Option Nat
  reception : Option (List Byte)
  buffer : List (List Byte)
  own : List Frame
  drop : Nat
  /-- Link-out carries symbols (R153). -/
  sending : Bool
  disparity : Bool
  freeAt : Nat
  sent : Option Sent
  deriving DecidableEq, Repr

/-! ### Loader and the whole -/

/-- The start-up loader (R162). -/
structure Loader where
  readEnds : Option Nat
  octets : List Byte
  imageDefault : Bool
  deriving DecidableEq, Repr

/-- The three pins that drive the EEPROM, set for high: ECS, ECK and EDO (R162); an output, no part of `State`. -/
structure EepromPins where
  select : Bool
  clock : Bool
  data : Bool
  deriving DecidableEq, Repr

/-- The tile controller. -/
structure State where
  /-- The model's clock (log 2). -/
  now : Nat
  /-- The commands that wait, first in first out (log 1). -/
  pending : List Instr
  inReset : Bool
  resetUntil : Nat
  straps : Straps
  loader : Loader
  settings : Settings
  mode : Mode
  engine : Engine
  /-- The field detector's four states, by frequency index (R27). -/
  detectors : List Detector
  /-- The arbiter's queue, oldest first, without the refresh request (R32, log 13). -/
  queue : List Request
  baseline : Baseline
  chanA : Channel
  chanB : Channel
  seek : Seek
  /-- The dormant timer (R93). -/
  dormant : Option Nat
  link : Link
  deriving DecidableEq, Repr

/-- No event of the spec stops the part, so no command faults: the type has no constructor. -/
inductive Fault where
  deriving DecidableEq, Repr

/-- Why a command is refused. -/
inductive Refusal where
  /-- Raised by `exec` alone, for a command that has no meaning yet; safe, as nothing can be proved of it. -/
  | notModelled (mnemonic : String)
  deriving DecidableEq, Repr

/-! ### Reset values -/

/-- The engine after reset: IDLE, sums 0, marks clear (R38). -/
def Engine.atReset : Engine where
  running := none
  paths := List.replicate 16 { i := 0, q := 0, clipped := false }

/-- The baseline unit after reset (R53). -/
def Baseline.atReset : Baseline where
  table := List.replicate 320 { value := 0, refreshed := none, pass1 := false, pass2 := false }
  counter := 0
  owed := 0
  pass := 1
  sweeping := false
  timer := none

/-- A channel after reset: no state, level 3, last strength 0, no record (R36, R72, R73, R95, R110, R125). -/
def Channel.atReset : Channel where
  state := .absent
  level := 3
  lastStrength := 0
  record := none
  pen := none
  cycles := none
  abandoned := none
  arming := none

/-- The link in reset (R153). -/
def Link.atReset : Link where
  up := false
  count := 0
  silence := none
  reception := none
  buffer := []
  own := []
  drop := 0
  sending := false
  disparity := false
  freeAt := Config.clockAtPowerOn
  sent := none

/-- The part just after power-on, held in reset (R168). -/
def State.reset : State where
  now := Config.clockAtPowerOn
  pending := []
  inReset := true
  resetUntil := Config.clockAtPowerOn + Config.powerOnHold
  straps := Config.strapsAtPowerOn
  loader := { readEnds := none, octets := [], imageDefault := false }
  settings := Config.settingsAtPowerOn
  mode := .start
  engine := Engine.atReset
  detectors := List.replicate 4 .quiet
  queue := []
  baseline := Baseline.atReset
  chanA := Channel.atReset
  chanB := Channel.atReset
  seek := { pass := none, timer := none, backoff := none, turn := .A, lfsr := Config.lfsrAtPowerOn }
  dormant := none
  link := Link.atReset

end Sys2Proof.Machine
end

