-- ==== Sys2Proof/Machine/Flags.lean ====
section
/-! DEFINITION. The flags of a REPORT (R158) and which block adds which (R90, R92, R119). -/

namespace Sys2Proof.Machine

/-- A flag at its weight 2^n. -/
def flagWeight (n : Nat) (b : Bool) : Nat := if b then 2 ^ n else 0

/-- The flags field of a REPORT (R158); bit 15 is 0. -/
def Flags.toWord (f : Flags) : Nat :=
  flagWeight 0 f.tipDown + flagWeight 1 f.positionHeld + flagWeight 2 f.pressureHeld + flagWeight 3 f.tiltHeld
    + flagWeight 4 f.tiltLimited + flagWeight 5 f.edgeX + flagWeight 6 f.edgeY + flagWeight 7 f.saturated
    + flagWeight 8 f.weak + flagWeight 9 f.disturbed + flagWeight 10 f.ringFault + flagWeight 11 f.baselineStale
    + flagWeight 12 f.hoverFiltered + flagWeight 13 f.imageDefaults + flagWeight 14 f.handover

/-- The flags read from the field; bit 15 is disregarded (R158). -/
def Flags.ofWord (w : Nat) : Flags where
  tipDown := w.testBit 0
  positionHeld := w.testBit 1
  pressureHeld := w.testBit 2
  tiltHeld := w.testBit 3
  tiltLimited := w.testBit 4
  edgeX := w.testBit 5
  edgeY := w.testBit 6
  saturated := w.testBit 7
  weak := w.testBit 8
  disturbed := w.testBit 9
  ringFault := w.testBit 10
  baselineStale := w.testBit 11
  hoverFiltered := w.testBit 12
  imageDefaults := w.testBit 13
  handover := w.testBit 14

/-- The flags of a weak cycle, before *tip down*, *saturated* and *baseline stale* (R79). -/
def weakFlags : Flags := { weak := true, positionHeld := true, pressureHeld := true, tiltHeld := true }

/-- The estimator's flags of a held report (R92). -/
def heldFlags (down : Bool) : Flags :=
  { positionHeld := true, pressureHeld := true, tiltHeld := true, tipDown := down }

/-- The tracker's own flags added to the estimator's (R119). -/
def trackerFlags (f : Flags) (disturbed ringFault handover imageDefaults : Bool) : Flags :=
  { f with disturbed := disturbed, ringFault := ringFault, handover := handover, imageDefaults := imageDefaults }

end Sys2Proof.Machine
end

