-- ==== Sys2Proof/Machine/Ops.lean ====
section
/-! DEFINITION. Shared operations: time, rounding, geometry of the surface, access to the channels. -/

namespace Sys2Proof.Machine

/-! ### Time (log 2) -/

/-- Microseconds in the model's unit: 1/495040 µs makes every duration of the spec a whole number. -/
def usec (n : Nat) : Nat := 495040 * n

/-- Milliseconds. -/
def msec (n : Nat) : Nat := usec (1000 * n)

/-- One period of a coil frequency, 416, 448, 512 and 544 kHz (R14). -/
def period (f : Nat) : Nat :=
  match f with
  | 0 => 1190000
  | 1 => 1105000
  | 2 => 966875
  | _ => 910000

/-- One symbol time of the link, 0.4 µs (R140). -/
def symbolTime : Nat := 198016

/-- Time passes before an event from outside. -/
def elapse (dt : Nat) (s : State) : State := { s with now := s.now + dt }

/-- An expiry is taken at its moment, or later when the clock has already passed it. -/
def reach (moment : Nat) (s : State) : State := { s with now := max s.now moment }

/-! ### Arithmetic (R1) -/

/-- "Clamped to lo..hi". -/
def clampInt (lo hi v : Int) : Int := if v < lo then lo else if hi < v then hi else v

/-- "Clamped to lo..hi" of a whole number that is not negative. -/
def clampNat (lo hi v : Nat) : Nat := if v < lo then lo else if hi < v then hi else v

/-- Integer division truncating toward zero. -/
def truncDiv (n d : Int) : Int := Int.tdiv n d

/-- "Rounded": the whole number nearest n / d, halves away from zero, for a positive d. -/
def roundDiv (n : Int) (d : Nat) : Int :=
  if 0 ≤ n then ((2 * n.natAbs + d) / (2 * d) : Nat) else -((2 * n.natAbs + d) / (2 * d) : Nat)

/-! ### Channels and frequencies (R14) -/

/-- The channel's number, 0 for A and 1 for B. -/
def chanIndex : Chan → Nat
  | .A => 0
  | .B => 1

/-- The other channel. -/
def otherChan : Chan → Chan
  | .A => .B
  | .B => .A

/-- The coil's number, 0 for tip and 1 for collar. -/
def coilIndex : Coil → Nat
  | .tip => 0
  | .collar => 1

/-- The frequency index of a channel's coil: 2 × channel + coil. -/
def coilFreq (c : Chan) (k : Coil) : Nat := 2 * chanIndex c + coilIndex k

/-- The channel of a frequency index: index div 2. -/
def freqChan (f : Nat) : Chan := if f / 2 = 0 then .A else .B

/-- The coil of a frequency index: index mod 2. -/
def freqCoil (f : Nat) : Coil := if f % 2 = 0 then .tip else .collar

/-- What the tile keeps for a channel. -/
def State.chan (s : State) : Chan → Channel
  | .A => s.chanA
  | .B => s.chanB

/-- A channel's record replaced. -/
def State.setChan (s : State) (c : Chan) (ch : Channel) : State :=
  match c with
  | .A => { s with chanA := ch }
  | .B => { s with chanB := ch }

/-- A channel's record changed. -/
def State.modChan (s : State) (c : Chan) (f : Channel → Channel) : State := s.setChan c (f (s.chan c))

/-- Whether the image enables the channel (R14). -/
def State.enabled (s : State) : Chan → Bool
  | .A => true
  | .B => s.settings.enableB

/-- The channel is in SEEK. -/
def State.inSeek (s : State) (c : Chan) : Bool := (s.chan c).state == .seek

/-- The channel is in HOLD. -/
def State.inHold (s : State) (c : Chan) : Bool := (s.chan c).state == .hold

/-- The channel is in HOLD or YIELD. -/
def State.holding (s : State) (c : Chan) : Bool :=
  match (s.chan c).state with
  | .hold => true
  | .yield _ => true
  | _ => false

/-- Every enabled channel is in SEEK (R93). -/
def State.allSeek (s : State) : Bool := s.inSeek .A && (!s.settings.enableB || s.inSeek .B)

/-! ### Place of the tile and its loops (R2 to R13) -/

/-- Loops of a tile along an axis (R2). -/
def axisLoops : Axis → Nat
  | .X => 48
  | .Y => 32

/-- Surface units of a tile along an axis (R2). -/
def tileUnits (ax : Axis) : Nat := axisLoops ax * 256

/-- The tile's column or row. -/
def place (st : Straps) : Axis → Nat
  | .X => st.col.val
  | .Y => st.row.val

/-- The mirror strap of an axis. -/
def mirrored (st : Straps) : Axis → Bool
  | .X => st.mirrorX
  | .Y => st.mirrorY

/-- The index of the tile in a column and row: row × 8 + column (R4). -/
def indexAt (col row : Nat) : Nat := row * 8 + col

/-- This tile's index (R4). -/
def ownIndex (st : Straps) : Nat := indexAt st.col.val st.row.val

/-- The lowest own surface loop of an axis (R6). -/
def ownLo (st : Straps) (ax : Axis) : Nat := place st ax * axisLoops ax

/-- The highest own surface loop of an axis (R6). -/
def ownHi (st : Straps) (ax : Axis) : Nat := place st ax * axisLoops ax + (axisLoops ax - 1)

/-- Local loop to surface loop (R7). -/
def toSurface (st : Straps) (ax : Axis) (i : Nat) : Nat :=
  if mirrored st ax then ownHi st ax - i else ownLo st ax + i

/-- Own surface loop to local loop (R7). -/
def toLocal (st : Straps) (ax : Axis) (k : Nat) : Nat :=
  if mirrored st ax then ownHi st ax - k else k - ownLo st ax

/-- The tile loop number of a local loop (R6). -/
def tileLoop (ax : Axis) (i : Nat) : Nat :=
  match ax with
  | .X => i
  | .Y => 48 + i

/-- The nearest own loop to a surface loop (R9). -/
def nearestOwn (st : Straps) (ax : Axis) (p : Nat) : Nat := clampNat (ownLo st ax) (ownHi st ax) p

/-- The lowest local loop of the edge group on a side (R10). -/
def edgeStart (st : Straps) (ax : Axis) (side : Side) : Nat :=
  if (side == .low) == mirrored st ax then axisLoops ax - 8 else 0

/-- The surface extent along an axis, in tiles (R5). -/
def extentTiles (set : Settings) : Axis → Nat
  | .X => set.columns
  | .Y => set.rows

/-- The number of coordinates of the surface along an axis (R5, R11). -/
def extentUnits (set : Settings) (ax : Axis) : Nat := extentTiles set ax * tileUnits ax

/-- The centre of a surface loop (R11). -/
def loopCentre (k : Nat) : Nat := k * 256 + 128

/-- A coordinate clamped to the surface extent (R11, R78). -/
def clampExtent (set : Settings) (ax : Axis) (v : Int) : Nat :=
  (clampInt 0 (Int.ofNat (extentUnits set ax) - 1) v).toNat

/-- The owning tile of a surface point (R12). -/
def ownerOf (x y : Nat) : Nat := indexAt (x / tileUnits .X) (y / tileUnits .Y)

/-- The coordinate lies at least `d` units past a border of this tile's span (R12). -/
def pastBorder (st : Straps) (ax : Axis) (d v : Nat) : Bool :=
  v + d ≤ place st ax * tileUnits ax || place st ax * tileUnits ax + (tileUnits ax - 1) + d ≤ v

/-- The tile is strapped beyond the surface extent (R5). -/
def beyondExtent (st : Straps) (set : Settings) : Bool :=
  set.columns ≤ st.col.val || set.rows ≤ st.row.val

/-- The neighbour on a side of an axis, if it exists within the extent, by tile index (R13). -/
def neighbour (st : Straps) (set : Settings) (ax : Axis) (side : Side) : Option Nat :=
  match ax, side with
  | .X, .low => if 1 ≤ st.col.val then some (indexAt (st.col.val - 1) st.row.val) else none
  | .X, .high => if st.col.val + 1 < set.columns then some (indexAt (st.col.val + 1) st.row.val) else none
  | .Y, .low => if 1 ≤ st.row.val then some (indexAt st.col.val (st.row.val - 1)) else none
  | .Y, .high => if st.row.val + 1 < set.rows then some (indexAt st.col.val (st.row.val + 1)) else none

/-- The tile loop is on the dead-loop list (R52). -/
def deadLoop (set : Settings) (n : Nat) : Bool := set.dead.contains n

/-- The trim of a tile loop, 896 + t (R51). -/
def trimOf (set : Settings) (n : Nat) : Nat := 896 + set.trims.getD n 128

/-- The report interval (R111). -/
def reportInterval (set : Settings) : Nat := usec (250 * set.intervalCode)

end Sys2Proof.Machine
end

