-- ==== Sys2Proof/Machine/Engine.lean ====
section
/-! DEFINITION. The excite-and-listen engine, its field detector and its arbiter (R15 to R35). -/

namespace Sys2Proof.Machine

/-! ### Sequences (R15 to R23) -/

/-- Slot s of the refresh serves frequency index s div 6 (R44). -/
def slotFreq (slot : Nat) : Nat := slot / 6

/-- X group of a slot (R44). -/
def slotX (slot : Nat) : Nat := slot % 6

/-- Y group of a slot (R44). -/
def slotY (slot : Nat) : Nat := slot % 6 % 4

/-- The frequency index of a sequence (R15). -/
def Job.freq : Job → Nat
  | .tip c => coilFreq c .tip
  | .collar c => coilFreq c .collar
  | .seekX c => coilFreq c .tip
  | .seekY c => coilFreq c .tip
  | .capture c k => coilFreq c k
  | .baseline slot => slotFreq slot

/-- The sequence drives loops (R16). -/
def Job.driven : Job → Bool
  | .tip _ => true
  | .collar _ => true
  | .seekX _ => true
  | .seekY _ => true
  | .capture _ _ => false
  | .baseline _ => false

/-- A tracking sequence of the channel. -/
def Job.tracks (c : Chan) : Job → Bool
  | .tip d => d == c
  | .collar d => d == c
  | _ => false

/-- A seek sequence of the channel. -/
def Job.seeks (c : Chan) : Job → Bool
  | .seekX d => d == c
  | .seekY d => d == c
  | _ => false

/-- How long a phase of a sequence lasts: 10, 3 and L periods of its frequency, 4 µs of DAMP (R16 to R18). -/
def phaseLength (listen : Nat) (freq : Nat) : Phase → Nat
  | .drive => 10 * period freq
  | .settle => 3 * period freq
  | .listen => listen * period freq
  | .damp => usec 4

/-- The running sequence put into a phase that begins now. -/
def enterPhase (ph : Phase) (seq : Sequence) (s : State) : State :=
  { s with engine := { s.engine with
      running := some
        { phase := ph, ends := s.now + phaseLength s.settings.listenLength seq.job.freq ph, seq := seq } } }

/-! ### Receive paths (R24, R25) -/

/-- A sample at an end of the converter's range (R25). -/
def sampleClips (v : Sample) : Bool := v.toInt == -2048 || v.toInt == 2047

/-- One period's four samples added to a path (R24, R25). -/
def addQuad (p : Path) (v : Quad) : Path where
  i := p.i + (v.s0.toInt - v.s2.toInt)
  q := p.q + (v.s1.toInt - v.s3.toInt)
  clipped := p.clipped || sampleClips v.s0 || sampleClips v.s1 || sampleClips v.s2 || sampleClips v.s3

/-- One period added to every path. -/
def addPeriod : List Path → Period → List Path
  | p :: ps, v :: vs => addQuad p v :: addPeriod ps vs
  | ps, _ => ps

/-- The sums of the paths after some periods of LISTEN. -/
def listenSums (paths : List Path) (periods : List Period) : List Path := periods.foldl addPeriod paths

/-- The engine samples for these periods, at most L of them (R16, log 12). -/
def sampleFor (periods : List Period) (s : State) : State :=
  { s with engine := { s.engine with
      paths := listenSums s.engine.paths (periods.take s.settings.listenLength) } }

/-- The samples a path had taken of a period cut short: they set its clipped mark and leave its sums (R25, R28). -/
def markCut (p : Path) (taken : List Sample) : Path := { p with clipped := p.clipped || taken.any sampleClips }

/-- The period cut short, path by path. -/
def markPaths : List Path → List (List Sample) → List Path
  | p :: ps, v :: vs => markCut p v :: markPaths ps vs
  | ps, _ => ps

/-- The engine has sampled for these periods when a rise cuts the listen short within the next one, if fewer than L have run (R25, R28, log 11). -/
def sampleUntilCut (l : Sampled) (s : State) : State :=
  let s := sampleFor l.periods s
  if l.periods.length < s.settings.listenLength then
    { s with engine := { s.engine with paths := markPaths s.engine.paths l.cut } }
  else s

/-! ### Field detector (R27) -/

/-- The detector's state at an index. -/
def detectorAt (f : Nat) (s : State) : Detector := s.detectors.getD f .quiet

/-- The detector's state at an index set. -/
def setDetector (f : Nat) (d : Detector) (s : State) : State := { s with detectors := s.detectors.set f d }

/-- The index leaves MASKED: PRESENT when foreign excitation is felt, otherwise QUIET (R27). -/
def unmask (f : Nat) (foreign : Bool) (s : State) : State :=
  setDetector f (if foreign then .present else .quiet) s

/-! ### Starting a sequence -/

/-- A sequence leaves IDLE: sums and clipped marks cleared, the record taken, the first phase entered, a driven index masked (R24, R25, R27). -/
def startSequence (ph : Phase) (seq : Sequence) (s : State) : State :=
  let s := { s with engine := { s.engine with paths := Engine.atReset.paths } }
  let s := if ph = .drive then setDetector seq.job.freq .masked s else s
  enterPhase ph seq s

/-- Window starts clamped into their ranges (R23). -/
def windowIn (ax : Axis) (w : Nat) : Nat := min w (axisLoops ax - 8)

/-- A surface X loop of this tile is on no dead-loop list. -/
def liveX (s : State) (k : Nat) : Bool := !deadLoop s.settings (toLocal s.straps .X k)

/-- Of two loops the nearer to p, the first when equally near. -/
def nearer (p a b : Nat) : Nat := if (b - p) + (p - b) < (a - p) + (p - a) then b else a

/-- The live own X loop nearest to own surface loop p, the lower of two equally near (R20). -/
def nearestLive (s : State) (p : Nat) : Nat :=
  match ((List.range 48).map (ownLo s.straps .X + ·)).filter (liveX s) with
  | [] => p
  | k :: ks => ks.foldl (nearer p) k

/-- The local X loop a tracking or seek Y sequence drives for a surface X loop (R20). -/
def driveLoop (s : State) (p : Nat) : Nat :=
  toLocal s.straps .X (nearestLive s (nearestOwn s.straps .X p))

/-- The local X loops a block excitation drives: the group without its dead loops (R21). -/
def blockLoops (s : State) (group : Nat) : List Nat :=
  ((List.range 8).map (8 * group + ·)).filter fun i => !deadLoop s.settings i

/-- The channel's last tip X peak. -/
def lastPeakX (s : State) (c : Chan) : Nat :=
  match (s.chan c).pen with
  | some p => p.peakX
  | none => 0

/-- The record of a driven sequence for a granted request (R19 to R21, R23). -/
def sequenceOf (r : Request) (s : State) : Sequence :=
  match r.ask with
  | .tip wx wy =>
      { job := .tip r.ch, loops := [driveLoop s (lastPeakX s r.ch)], level := (s.chan r.ch).level
        windowX := windowIn .X wx, windowY := windowIn .Y wy, disturbed := false, abandoned := false }
  | .collar wx wy =>
      { job := .collar r.ch, loops := [driveLoop s (lastPeakX s r.ch)], level := (s.chan r.ch).level
        windowX := windowIn .X wx, windowY := windowIn .Y wy, disturbed := false, abandoned := false }
  | .seekX g =>
      { job := .seekX r.ch, loops := blockLoops s g, level := 3
        windowX := windowIn .X (8 * g), windowY := 0, disturbed := false, abandoned := false }
  | .seekY loop g h =>
      { job := .seekY r.ch, loops := [driveLoop s loop], level := 3
        windowX := windowIn .X (8 * g), windowY := windowIn .Y (8 * h), disturbed := false, abandoned := false }

/-- The record of a baseline listen for the slot the counter names; disturbed from the start when a station already drives at its frequency (R46). -/
def baselineSequence (s : State) : Sequence where
  job := .baseline s.baseline.counter
  loops := []
  level := 0
  windowX := windowIn .X (8 * slotX s.baseline.counter)
  windowY := windowIn .Y (8 * slotY s.baseline.counter)
  disturbed := detectorAt (slotFreq s.baseline.counter) s == .present
  abandoned := false

/-- The record of a border capture for an arming record (R23, R30). -/
def captureSequence (c : Chan) (k : Coil) (a : Arming) (st : Straps) : Sequence where
  job := .capture c k
  loops := []
  level := 0
  windowX := if a.axis = .X then edgeStart st .X a.side else 0
  windowY := if a.axis = .Y then edgeStart st .Y a.side else 0
  disturbed := false
  abandoned := false

/-! ### Arbiter (R32 to R34) -/

/-- A tracking request. -/
def Ask.tracks : Ask → Bool
  | .tip _ _ => true
  | .collar _ _ => true
  | _ => false

/-- Two requests that may not wait together (R32): tip and tip, collar and collar, seek and seek of one channel. -/
def sameRequester (a b : Request) : Bool :=
  a.ch == b.ch &&
    match a.ask, b.ask with
    | .tip _ _, .tip _ _ => true
    | .collar _ _, .collar _ _ => true
    | .seekX _, .seekX _ => true
    | .seekX _, .seekY _ _ _ => true
    | .seekY _ _ _, .seekX _ => true
    | .seekY _ _ _, .seekY _ _ _ => true
    | _, _ => false

/-- A request joins the queue, or replaces the waiting one of its requester in place (R32). -/
def enqueue (r : Request) (q : List Request) : List Request :=
  if q.any (sameRequester r) then q.map fun x => if sameRequester r x then r else x else q ++ [r]

/-- A request is eligible: tracking in HOLD, seek in SEEK (R34). -/
def eligible (s : State) (r : Request) : Bool :=
  if r.ask.tracks then s.inHold r.ch else s.inSeek r.ch

/-- The oldest eligible request of a class with the queue left by it; ineligible ones passed over leave too (R33, R34). -/
def pick (cls ok : Request → Bool) : List Request → Option Request × List Request
  | [] => (none, [])
  | r :: rest =>
      if cls r then
        if ok r then (some r, rest) else pick cls ok rest
      else
        let (o, l) := pick cls ok rest
        (o, r :: l)

/-- The refresh request stands while the pending count is 1 or more (R32). -/
def refreshStands (s : State) : Bool := 1 ≤ s.baseline.owed

/-- The refresh request is forced at a pending count of 8 (R32, R33). -/
def refreshForced (s : State) : Bool := 8 ≤ s.baseline.owed

/-- The granted request's sequence begins in DRIVE. -/
def grantRequest (r : Request) (s : State) : State := startSequence .drive (sequenceOf r s) s

/-- The granted refresh begins in LISTEN (R18, R46). -/
def grantRefresh (s : State) : State := startSequence .listen (baselineSequence s) s

/-- The grant of an idle engine: forced refresh, oldest tracking, oldest seek, ordinary refresh (R33). -/
def choose (s : State) : State :=
  if refreshForced s then grantRefresh s
  else
    match pick (fun r => r.ask.tracks) (eligible s) s.queue with
    | (some r, q) => grantRequest r { s with queue := q }
    | (none, q) =>
        match pick (fun r => !r.ask.tracks) (eligible s) q with
        | (some r, q') => grantRequest r { s with queue := q' }
        | (none, q') =>
            let s := { s with queue := q' }
            if refreshStands s then grantRefresh s else s

/-- The arbiter grants when the engine is IDLE, and nothing in OUTSIDE (R33, R34). -/
def grant (s : State) : State :=
  match s.engine.running with
  | some _ => s
  | none => if s.mode = .outside then s else choose s

/-- A request arrives: it joins the queue and is granted at once if the engine is IDLE (R32, R33). -/
def submit (r : Option Request) (s : State) : State :=
  match r with
  | none => s
  | some r => grant { s with queue := enqueue r s.queue }

/-- What a block answers: the state it leaves and the request it then makes of the engine. -/
abbrev Reaction := State × Option Request

/-- A reaction outside the end of a sequence: its request arrives at once. -/
def settleReaction (r : Reaction) : State := submit r.2 r.1

/-! ### Marks of the sequence in progress -/

/-- The sequence in progress changed, when it is of a kind. -/
def markRunning (which : Job → Bool) (f : Sequence → Sequence) (s : State) : State :=
  match s.engine.running with
  | some r =>
      if which r.seq.job then
        { s with engine := { s.engine with running := some { r with seq := f r.seq } } }
      else s
  | none => s

/-- The abandoned mark set on the sequence in progress, when it is of a kind (R26). -/
def abandonRunning (which : Job → Bool) (s : State) : State :=
  markRunning which (fun q => { q with abandoned := true }) s

/-- A sequence of a kind is in progress. -/
def isRunning (which : Job → Bool) (s : State) : Bool :=
  match s.engine.running with
  | some r => which r.seq.job
  | none => false

/-- The tracker withdraws waiting requests (R32). -/
def withdraw (which : Request → Bool) (s : State) : State :=
  { s with queue := s.queue.filter fun r => !which r }

/-- The engine enters IDLE. -/
def goIdle (s : State) : State := { s with engine := { s.engine with running := none } }

/-! ### What the engine does to the loops (outputs, log 17) -/

/-- The local X loops driven now (R19 to R21, R38). -/
def State.drivenLoops (s : State) : List Nat :=
  match s.engine.running with
  | some r => if r.phase = .drive then r.seq.loops else []
  | none => []

/-- The tile loops damped now: all in reset, the driven ones in DAMP (R22, R38). -/
def State.dampedLoops (s : State) : List Nat :=
  if s.inReset then List.range 80
  else
    match s.engine.running with
    | some r => if r.phase = .damp then r.seq.loops else []
    | none => []

end Sys2Proof.Machine
end

