-- ==== Sys2Proof/Machine/Baselines.lean ====
section
/-! DEFINITION. Magnitudes and the baseline unit: table, refresh, double sweep (R40 to R54). -/

namespace Sys2Proof.Machine

/-- The magnitude of a path's reading (R40). -/
def magnitude (p : Path) : Nat :=
  max p.i.natAbs p.q.natAbs + 3 * min p.i.natAbs p.q.natAbs / 8

/-- The place of a record in the table (R41). -/
def floorIndex (f n : Nat) : Nat := f * 80 + n

/-- The record of tile loop n at frequency index f (R41). -/
def floorAt (s : State) (f n : Nat) : Floor :=
  s.baseline.table.getD (floorIndex f n) { value := 0, refreshed := none, pass1 := false, pass2 := false }

/-- A record is stale: never refreshed, or more than 400 ms ago (R42). -/
def staleAt (now : Nat) (fl : Floor) : Bool :=
  match fl.refreshed with
  | none => true
  | some t => t + msec 400 < now

/-- A completed refresh moves the floor a quarter of the way (R47). -/
def refreshFloor (now m : Nat) (fl : Floor) : Floor :=
  { fl with
    value := (Int.ofNat fl.value + truncDiv (Int.ofNat m - Int.ofNat fl.value) 4).toNat
    refreshed := some now }

/-- The double sweep's write of a record in its first and second pass (R50). -/
def sweepFloor (pass now m : Nat) (fl : Floor) : Floor :=
  if pass = 1 then
    if fl.pass1 then fl else { fl with value := m, refreshed := some now, pass1 := true }
  else
    if fl.pass2 then fl
    else { fl with value := if fl.pass1 then (fl.value + m) / 2 else m, refreshed := some now, pass2 := true }

/-- The tile loop that receive path j of a slot's listen hears: X paths 0 to 7, Y paths 8 to 15 (R44). -/
def slotLoop (slot j : Nat) : Nat :=
  if j < 8 then 8 * slotX slot + j else 48 + 8 * slotY slot + (j - 8)

/-- A path whose record a listen writes: a live loop's whose clipped mark is clear (R47, R50). -/
def writesFloor (s : State) (slot j : Nat) : Bool :=
  match s.engine.paths[j]? with
  | some p => !deadLoop s.settings (slotLoop slot j) && !p.clipped
  | none => false

/-- The magnitude of receive path j. -/
def pathMagnitude (s : State) (j : Nat) : Nat :=
  match s.engine.paths[j]? with
  | some p => magnitude p
  | none => 0

/-- One path's record written by a listen of a slot. -/
def writeFloor (write : Nat → Floor → Floor) (s : State) (slot : Nat) (table : List Floor) (j : Nat) : List Floor :=
  if writesFloor s slot j then
    table.modify (floorIndex (slotFreq slot) (slotLoop slot j)) (write (pathMagnitude s j))
  else table

/-- The sixteen records of a slot written together (R47). -/
def writeSlot (write : Nat → Floor → Floor) (slot : Nat) (s : State) : List Floor :=
  (List.range 16).foldl (writeFloor write s slot) s.baseline.table

/-- The counter after a completed refresh (R48): the next slot in ACTIVE, the next even slot in DORMANT. -/
def nextSlot (mode : Mode) (served : Nat) : Nat :=
  if mode = .dormant then
    if served % 2 = 0 then (served + 2) % 24 else (served + 1) % 24
  else (served + 1) % 24

/-- The counter at entry to DORMANT (R48). -/
def evenSlot (counter : Nat) : Nat := if counter % 2 = 1 then (counter + 1) % 24 else counter

/-- A refresh of a slot completes (R47, R48). -/
def completeRefresh (slot : Nat) (s : State) : State :=
  { s with baseline := { s.baseline with
      table := writeSlot (refreshFloor s.now) slot s
      owed := s.baseline.owed - 1
      counter := nextSlot s.mode slot } }

/-- The sweep steps after an undisturbed listen (R50); the flag says that it is complete. -/
def stepSweep (b : Baseline) : Baseline × Bool :=
  if b.counter < 23 then ({ b with counter := b.counter + 1 }, false)
  else if b.pass = 1 then ({ b with counter := 0, pass := 2 }, false)
  else ({ b with counter := 0 }, true)

/-- The records of the sweep's present slot written (R50). -/
def writeSweep (slot : Nat) (s : State) : State :=
  { s with baseline := { s.baseline with
      table := writeSlot (sweepFloor s.baseline.pass s.now) slot s } }

/-- The double sweep begins: counter 0, pass 1, pending count 1 (R50). -/
def beginSweep (s : State) : State :=
  { s with baseline := { s.baseline with counter := 0, pass := 1, owed := 1, sweeping := true } }

/-- The unit's side of the end of the sweep: pending count 0, refresh timer started with 8 ms (R45, R50). -/
def endSweep (s : State) : State :=
  { s with baseline := { s.baseline with owed := 0, sweeping := false, timer := some (s.now + msec 8) } }

end Sys2Proof.Machine
end

