-- ==== Sys2Proof/Machine/Profiles.lean ====
section
/-! DEFINITION. The profile builder: amplitudes, windows, wants, border merging, dead fill, marks (R55 to R71). -/

namespace Sys2Proof.Machine

/-! ### Amplitudes (R55, R56) -/

/-- The amplitude of a reading of magnitude m over floor b with trim g (R55). -/
def amplitude (m b g : Nat) : Nat := (m - b) * g / 1024

/-- A peak amplitude scaled to drive level 3 (R56). -/
def strengthAt (level amp : Nat) : Nat := amp * 2 ^ (3 - level)

/-- The receive path of an axis listening to local loop start + n (R23). -/
def pathIndex (ax : Axis) (n : Nat) : Nat :=
  match ax with
  | .X => n
  | .Y => 8 + n

/-- The reading of path n of an axis. -/
def pathOf (s : State) (ax : Axis) (n : Nat) : Path :=
  s.engine.paths.getD (pathIndex ax n) { i := 0, q := 0, clipped := false }

/-- The entry of path n of an axis whose window starts at local loop w: own with its amplitude, or filled and still to be filled for a dead loop (R55, R66). -/
def ownEntry (s : State) (ax : Axis) (f w n : Nat) : Entry :=
  if deadLoop s.settings (tileLoop ax (w + n)) then
    { loop := toSurface s.straps ax (w + n), amp := 0, source := .filled, clipped := false }
  else
    { loop := toSurface s.straps ax (w + n)
      amp := amplitude (magnitude (pathOf s ax n)) (floorAt s f (tileLoop ax (w + n))).value
        (trimOf s.settings (tileLoop ax (w + n)))
      source := .own
      clipped := (pathOf s ax n).clipped }

/-- The eight paths of an axis in ascending surface order (R8). -/
def surfaceOrder (s : State) (ax : Axis) : List Nat :=
  if mirrored s.straps ax then (List.range 8).reverse else List.range 8

/-- The eight entries of an axis, ascending in surface loop (R8, R66). -/
def ownEntries (s : State) (ax : Axis) (f w : Nat) : List Entry :=
  (surfaceOrder s ax).map (ownEntry s ax f w)

/-- An own entry of the axis was formed from a stale floor (R69). -/
def readsStale (s : State) (ax : Axis) (f w : Nat) : Bool :=
  (List.range 8).any fun n =>
    !deadLoop s.settings (tileLoop ax (w + n)) && staleAt s.now (floorAt s f (tileLoop ax (w + n)))

/-! ### Peaks (R76) -/

/-- Of two entries the one with the larger amplitude, the first when equal. -/
def larger (a b : Entry) : Entry := if a.amp < b.amp then b else a

/-- The peak entry of a list ascending in loops: largest amplitude, lowest loop (R76). -/
def peakEntry : List Entry → Entry
  | [] => { loop := 0, amp := 0, source := .own, clipped := false }
  | e :: es => es.foldl larger e

/-! ### Dead fill (R67) -/

/-- The entry is no dead own entry. -/
def Entry.live (e : Entry) : Bool := e.source != .filled

/-- A dead entry filled from its list neighbours (R67). -/
def fillEntry (e : Entry) (below above : Option Entry) : Entry :=
  match below, above with
  | some b, some a => { e with amp := (b.amp + a.amp) / 2, clipped := b.clipped || a.clipped }
  | some b, none => { e with amp := b.amp, clipped := b.clipped }
  | none, some a => { e with amp := a.amp, clipped := a.clipped }
  | none, none => { e with amp := 0, clipped := false }

/-- Dead entries filled along a list, `below` being the nearest live entry passed so far. -/
def fillFrom (below : Option Entry) : List Entry → List Entry
  | [] => []
  | e :: es =>
      if e.live then e :: fillFrom (some e) es
      else fillEntry e below (es.find? Entry.live) :: fillFrom below es

/-- Every dead entry of a list filled (R67). -/
def fillDead (es : List Entry) : List Entry := fillFrom none es

/-- The filled run of eight entries of a seek or border capture (R62, R71). -/
def filledRun (s : State) (ax : Axis) (f w : Nat) : List Entry := fillDead (ownEntries s ax f w)

/-! ### The cycle record (R58 to R61) -/

/-- The window start for a last tip peak (R59). -/
def windowStart (st : Straps) (ax : Axis) (peak : Nat) : Nat :=
  min (toLocal st ax (nearestOwn st ax peak) - 3) (axisLoops ax - 8)

/-- A want on one side with a count, if the count is above 0 and the neighbour exists (R60). -/
def wantOn (st : Straps) (set : Settings) (ax : Axis) (side : Side) (count : Nat) : Option Want :=
  match neighbour st set ax side with
  | some t => if 1 ≤ count then some { side := side, count := count, supplier := t } else none
  | none => none

/-- The border want of an axis for a last tip peak (R60). -/
def borderWant (st : Straps) (set : Settings) (ax : Axis) (peak : Nat) : Option Want :=
  match wantOn st set ax .low (3 - (nearestOwn st ax peak - ownLo st ax)) with
  | some w => some w
  | none => wantOn st set ax .high (3 - (ownHi st ax - nearestOwn st ax peak))

/-- The first wanted loop, the lowest in surface numbering (R61). -/
def firstWanted (st : Straps) (ax : Axis) (w : Want) : Nat :=
  match w.side with
  | .low => ownLo st ax - w.count
  | .high => ownHi st ax + 1

/-- A surface loop is one of the wanted loops (R61). -/
def wanted (st : Straps) (ax : Axis) (w : Want) (k : Nat) : Bool :=
  firstWanted st ax w ≤ k && k < firstWanted st ax w + w.count

/-- The cycle record at the start of cycle c (R58). -/
def newRecord (st : Straps) (set : Settings) (p : Pen) (number : Nat) : CycleRecord where
  number := number
  windowX := windowStart st .X p.peakX
  windowY := windowStart st .Y p.peakY
  wantX := borderWant st set .X p.peakX
  wantY := borderWant st set .Y p.peakY
  tipX := []
  tipY := []
  collarX := []
  collarY := []
  strongest := none
  stale := false
  edgeX := false
  edgeY := false
  collarBuilt := false

/-- The want of an axis. -/
def CycleRecord.want (r : CycleRecord) : Axis → Option Want
  | .X => r.wantX
  | .Y => r.wantY

/-- The window start of an axis. -/
def CycleRecord.window (r : CycleRecord) : Axis → Nat
  | .X => r.windowX
  | .Y => r.windowY

/-- A profile of the record. -/
def CycleRecord.profile (r : CycleRecord) : Coil → Axis → List Entry
  | .tip, .X => r.tipX
  | .tip, .Y => r.tipY
  | .collar, .X => r.collarX
  | .collar, .Y => r.collarY

/-- A profile of the record replaced. -/
def CycleRecord.setProfile (r : CycleRecord) (k : Coil) (ax : Axis) (es : List Entry) : CycleRecord :=
  match k, ax with
  | .tip, .X => { r with tipX := es }
  | .tip, .Y => { r with tipY := es }
  | .collar, .X => { r with collarX := es }
  | .collar, .Y => { r with collarY := es }

/-! ### Border entries (R63, R64) -/

/-- An entry placed into a list ascending in loops; a loop already there keeps its entry. -/
def insertEntry (e : Entry) : List Entry → List Entry
  | [] => [e]
  | x :: xs => if e.loop < x.loop then e :: x :: xs else if e.loop = x.loop then x :: xs else x :: insertEntry e xs

/-- The list holds an entry for the loop. -/
def holdsLoop (es : List Entry) (k : Nat) : Bool := es.any (·.loop == k)

/-- A border entry merged when its loop is wanted and free (R63). -/
def mergeEntry (st : Straps) (ax : Axis) (w : Want) (clipped : Bool) (es : List Entry) (v : Nat × Nat) : List Entry :=
  if wanted st ax w v.1 && !holdsLoop es v.1 then
    insertEntry { loop := v.1, amp := 4 * v.2, source := .border, clipped := clipped } es
  else es

/-- The first `count` places of a BORDER with their surface loops (R63). -/
def namedPlaces (first count : Nat) (amps : List Nat) : List (Nat × Nat) :=
  ((List.range amps.length).zip amps |>.take count).map fun v => (first + v.1, v.2)

/-- The lowest own surface loop of the window (R8, R64). -/
def runLow (st : Straps) (ax : Axis) (w : Nat) : Nat :=
  if mirrored st ax then toSurface st ax (w + 7) else toSurface st ax w

/-- A border entry adjoins the own run: every loop between holds a border entry (R64). -/
def adjoins (st : Straps) (ax : Axis) (w : Nat) (es : List Entry) (e : Entry) : Bool :=
  e.source != .border ||
    (if e.loop < runLow st ax w then
      (List.range (runLow st ax w - e.loop)).all fun d => holdsLoop es (e.loop + d)
    else
      (List.range (e.loop - (runLow st ax w + 7))).all fun d => holdsLoop es (e.loop - d))

/-- Border entries that do not adjoin the own run removed (R64). -/
def pruned (st : Straps) (ax : Axis) (w : Nat) (es : List Entry) : List Entry := es.filter (adjoins st ax w es)

/-- A BORDER's entries of one coil merged into a profile (R63, R64). -/
def mergeCoil (st : Straps) (ax : Axis) (want : Want) (window first count : Nat) (amps : List Nat) (clipped : Bool)
    (es : List Entry) : List Entry :=
  pruned st ax window ((namedPlaces first count amps).foldl (mergeEntry st ax want clipped) es)

/-- An accepted BORDER considered against the cycle record (R63). -/
def mergeBorder (st : Straps) (origin : Nat) (b : Border) (r : CycleRecord) : CycleRecord :=
  match r.want b.axis with
  | none => r
  | some w =>
      if w.supplier ≠ origin then r
      else
        let r := r.setProfile .tip b.axis
          (mergeCoil st b.axis w (r.window b.axis) b.first b.count b.tip b.tipClipped (r.profile .tip b.axis))
        if b.collarAbsent then
          r.setProfile .collar b.axis (pruned st b.axis (r.window b.axis) (r.profile .collar b.axis))
        else
          r.setProfile .collar b.axis
            (mergeCoil st b.axis w (r.window b.axis) b.first b.count b.collar b.collarClipped
              (r.profile .collar b.axis))

/-! ### Own entries (R66, R69) -/

/-- Own entries joined with the border entries a profile already holds. -/
def withOwn (own es : List Entry) : List Entry :=
  (es.filter fun e => e.source == .border).foldl (fun l e => insertEntry e l) own

/-- The strongest own tip X path with its I and Q sums; zero sums when no X loop of the window is live (R66). -/
def strongestOf (s : State) (f w : Nat) : Strongest :=
  match (ownEntries s .X f w).filter Entry.live with
  | [] => { loop := none, i := 0, q := 0 }
  | e :: es =>
      let k := (es.foldl larger e).loop
      let p := pathOf s .X (toLocal s.straps .X k - w)
      { loop := some k, i := p.i, q := p.q }

/-- The own entries of a coil formed from a delivered result with windows wx and wy, and the stale mark (R66, R69). -/
def formProfiles (s : State) (c : Chan) (k : Coil) (wx wy : Nat) (r : CycleRecord) : CycleRecord :=
  let f := coilFreq c k
  let r := r.setProfile k .X (withOwn (ownEntries s .X f wx) (r.profile k .X))
  let r := r.setProfile k .Y (withOwn (ownEntries s .Y f wy) (r.profile k .Y))
  { r with stale := r.stale || readsStale s .X f wx || readsStale s .Y f wy }

/-- The tip profiles formed, with the strongest path (R66). -/
def formTip (s : State) (c : Chan) (wx wy : Nat) (r : CycleRecord) : CycleRecord :=
  { formProfiles s c .tip wx wy r with strongest := some (strongestOf s (coilFreq c .tip) wx) }

/-- The collar profiles formed, with the collar-built mark (R66). -/
def formCollar (s : State) (c : Chan) (wx wy : Nat) (r : CycleRecord) : CycleRecord :=
  { formProfiles s c .collar wx wy r with collarBuilt := true }

/-! ### The end of the border wait (R67, R68, R70) -/

/-- The tip profile of an axis holds fewer border entries than its want's count (R68). -/
def edgeMark (want : Option Want) (tip : List Entry) : Bool :=
  match want with
  | none => false
  | some w => (tip.filter fun e => e.source == .border).length < w.count

/-- The record handed to the estimator: dead entries filled, edge marks judged (R67, R68, R70). -/
def closeRecord (r : CycleRecord) : CycleRecord :=
  { r with
    tipX := fillDead r.tipX
    tipY := fillDead r.tipY
    collarX := fillDead r.collarX
    collarY := fillDead r.collarY
    edgeX := edgeMark r.wantX r.tipX
    edgeY := edgeMark r.wantY r.tipY }

/-! ### Border readings at the supplier (R62) -/

/-- The amplitudes and clipped marks of an arming record's wanted loops, ascending, from a delivered capture (R62). -/
def captureOf (s : State) (c : Chan) (k : Coil) (a : Arming) : Capture :=
  ((filledRun s a.axis (coilFreq c k) (edgeStart s.straps a.axis a.side)).filter fun e =>
    a.first ≤ e.loop && e.loop < a.first + a.count).map fun e => (e.amp, e.clipped)

/-- An amplitude as a BORDER carries it: divided by 4, at most 65535 (R62). -/
def quantised (amp : Nat) : Nat := min (amp / 4) 65535

end Sys2Proof.Machine
end

