-- ==== Sys2Proof/Machine/Estimator.lean ====
section
/-! DEFINITION. The pen estimator: position, pressure, tilt, hover filter, drive level, report contents (R37, R73 to R92). -/

namespace Sys2Proof.Machine

/-! ### Entry to HOLD (R74) -/

/-- The pen record of a hold entered by the tile's own claim. -/
def penOfClaim (c : Claim) : Pen where
  peakX := c.coarseX
  peakY := c.coarseY
  down := false
  weakCount := 0
  history := []
  writeIndex := 0
  lastX := loopCentre c.coarseX
  lastY := loopCentre c.coarseY
  lastPressure := 0
  lastTiltX := 0
  lastTiltY := 0

/-- The pen record of a hold entered by a take. -/
def penOfYield (set : Settings) (f : YieldFields) : Pen :=
  let x := clampExtent set .X (Int.ofNat f.x)
  let y := clampExtent set .Y (Int.ofNat f.y)
  { peakX := x / 256
    peakY := y / 256
    down := f.contact
    weakCount := 0
    history := if f.contact then [] else [(x, y)]
    writeIndex := if f.contact then 0 else 1 % set.historyLength
    lastX := x
    lastY := y
    lastPressure := if f.contact then clampNat 0 4095 f.pressure else 0
    lastTiltX := 0
    lastTiltY := 0 }

/-! ### Interpolation (R77, R78) -/

/-- The offset of a profile from its peak loop; none when the peak is at an end of the list (R77). -/
def offsetOf (es : List Entry) : Option Int :=
  let p := peakEntry es
  match es.find? (fun e => e.loop + 1 == p.loop), es.find? (fun e => e.loop == p.loop + 1) with
  | some b, some a =>
      let d : Int := 2 * Int.ofNat p.amp - Int.ofNat b.amp - Int.ofNat a.amp
      some (if d = 0 then 0
        else clampInt (-128) 127 (roundDiv (128 * (Int.ofNat a.amp - Int.ofNat b.amp) * d.sign) d.natAbs))
  | _, _ => none

/-- The unclamped coordinate of a profile (R78). -/
def coordinateOf (es : List Entry) : Int := Int.ofNat (loopCentre (peakEntry es).loop) + (offsetOf es).getD 0

/-- The peak of a profile is at an end of its list (R77). -/
def atListEnd (es : List Entry) : Bool := (offsetOf es).isNone

/-! ### Pressure and contact (R81 to R84) -/

/-- The pressure P of a strongest path, none when its I is 0 or less (R81, R82). -/
def pressureOf (offset : Int) (gain : Nat) (st : Strongest) : Option Nat :=
  if 0 < st.i then
    let q := clampInt (-4096) 4095 (truncDiv (1024 * st.q) st.i)
    some (clampInt 0 4095 (truncDiv ((q - offset) * Int.ofNat gain) 256)).toNat
  else none

/-- The contact state after a cycle (R82, R83). -/
def contactAfter (set : Settings) (down : Bool) (p : Option Nat) : Bool :=
  match p with
  | none => down
  | some p => if down then set.contactUp ≤ p else set.contactDown ≤ p

/-- The held pressure (R82). -/
def heldPressure (pen : Pen) : Nat := if pen.down then pen.lastPressure else 0

/-- The reported pressure for a contact state after the update (R84). -/
def reportedPressure (pen : Pen) (down : Bool) (p : Option Nat) : Nat :=
  match p with
  | none => heldPressure pen
  | some p => if down then p else 0

/-! ### Tilt (R85, R86) -/

/-- A tilt component before its clamp (R86). -/
def tiltOf (set : Settings) (collar tip : Int) : Int := roundDiv (512 * (collar - tip)) set.separation

/-- The tilt components' clamp (R86). -/
def clampTilt (v : Int) : Int := clampInt (-443) 443 v

/-- Tilt is valid in a cycle that is not weak (R85). -/
def tiltValid (set : Settings) (level : Nat) (r : CycleRecord) : Bool :=
  r.collarBuilt && set.tiltThreshold ≤ strengthAt level (peakEntry r.collarX).amp

/-! ### Hover filter (R87 to R89) -/

/-- A position written into the history ring of M slots (R87). -/
def writeHistory (m : Nat) (v : Nat × Nat) (pen : Pen) : Pen :=
  { pen with
    history := if pen.writeIndex < pen.history.length then pen.history.set pen.writeIndex v else pen.history ++ [v]
    writeIndex := (pen.writeIndex + 1) % m }

/-- The history ring emptied (R88). -/
def clearHistory (pen : Pen) : Pen := { pen with history := [], writeIndex := 0 }

/-- The ring and contact state after a cycle whose position is computed (R87, R88). -/
def hoverStep (m : Nat) (v : Nat × Nat) (down : Bool) (pen : Pen) : Pen :=
  if down then
    if pen.down then pen else { clearHistory pen with down := true }
  else
    if pen.down then { writeHistory m v (clearHistory pen) with down := false } else writeHistory m v pen

/-- Mean (floor) of a list of whole numbers. -/
def meanFloor (l : List Nat) : Nat := l.sum / l.length

/-- The reported position and whether it is filtered, after the ring's step (R89). -/
def reportedPosition (v : Nat × Nat) (pen : Pen) : (Nat × Nat) × Bool :=
  if pen.down then (v, false)
  else ((meanFloor (pen.history.map Prod.fst), meanFloor (pen.history.map Prod.snd)), 1 < pen.history.length)

/-! ### Drive level (R37) -/

/-- The profiles whose peaks the drive-level adjustment examines. -/
def examined (r : CycleRecord) : List (List Entry) :=
  if r.collarBuilt then [r.tipX, r.tipY, r.collarX, r.collarY] else [r.tipX, r.tipY]

/-- A peak entry of the cycle carries the clipped mark. -/
def anyPeakClipped (r : CycleRecord) : Bool := (examined r).any fun es => (peakEntry es).clipped

/-- The level after a cycle and the *saturated* flag (R37). -/
def adjustLevel (set : Settings) (level : Nat) (r : CycleRecord) : Nat × Bool :=
  if anyPeakClipped r then (level - 1, level == 0)
  else if max (peakEntry r.tipX).amp (peakEntry r.tipY).amp < set.agcTarget && level < 3 then (level + 1, false)
  else (level, false)

/-! ### One estimate (R75) -/

/-- The report contents (R90). -/
structure Contents where
  level : Nat
  x : Nat
  y : Nat
  pressure : Nat
  tiltX : Int
  tiltY : Int
  flags : Flags
  deriving DecidableEq, Repr

/-- What an estimate leaves: contents, pen record, drive level, strength, and whether the channel is lost (R75, R80). -/
structure Estimate where
  contents : Contents
  pen : Pen
  level : Nat
  strength : Nat
  lost : Bool
  deriving DecidableEq, Repr

/-- The calibration of a channel's pressure: q0 and kp. -/
def pressureCal (set : Settings) : Chan → Int × Nat
  | .A => (set.offsetA, set.gainA)
  | .B => (set.offsetB, set.gainB)

/-- A weak cycle (R79, R80). -/
def estimateWeak (set : Settings) (level : Nat) (r : CycleRecord) (pen : Pen) : Estimate where
  contents :=
    { level := level, x := pen.lastX, y := pen.lastY, pressure := heldPressure pen
      tiltX := pen.lastTiltX, tiltY := pen.lastTiltY
      flags := { weakFlags with tipDown := pen.down, saturated := (adjustLevel set level r).2, baselineStale := r.stale } }
  pen := { pen with weakCount := min (pen.weakCount + 1) 4 }
  level := (adjustLevel set level r).1
  strength := strengthAt level (peakEntry r.tipX).amp
  lost := 4 ≤ pen.weakCount + 1

/-- The current position of a cycle: the clamped tip coordinates (R78). -/
def currentPosition (set : Settings) (r : CycleRecord) : Nat × Nat :=
  (clampExtent set .X (coordinateOf r.tipX), clampExtent set .Y (coordinateOf r.tipY))

/-- *Edge estimate* of an axis in a cycle that is not weak (R78). -/
def edgeEstimate (mark built : Bool) (tip collar : List Entry) : Bool :=
  mark || atListEnd tip || (built && atListEnd collar)

/-- The strongest path, zero sums when absent (R66). -/
def strongestPath (r : CycleRecord) : Strongest := r.strongest.getD { loop := none, i := 0, q := 0 }

/-- A cycle that is not weak (R75, steps 4 to 9). -/
def estimateStrong (set : Settings) (c : Chan) (level : Nat) (r : CycleRecord) (pen : Pen) : Estimate :=
  let p := pressureOf (pressureCal set c).1 (pressureCal set c).2 (strongestPath r)
  let down := contactAfter set pen.down p
  let pressure := reportedPressure pen down p
  let valid := tiltValid set level r
  let tx := if valid then tiltOf set (coordinateOf r.collarX) (coordinateOf r.tipX) else pen.lastTiltX
  let ty := if valid then tiltOf set (coordinateOf r.collarY) (coordinateOf r.tipY) else pen.lastTiltY
  let tiltX := if valid then clampTilt tx else tx
  let tiltY := if valid then clampTilt ty else ty
  let here := currentPosition set r
  let pen := hoverStep set.historyLength here down pen
  let (shown, filtered) := reportedPosition here pen
  { contents :=
      { level := level, x := shown.1, y := shown.2, pressure := pressure, tiltX := tiltX, tiltY := tiltY
        flags :=
          { tipDown := down
            pressureHeld := p.isNone
            tiltHeld := !valid
            tiltLimited := tiltX != tx || tiltY != ty
            edgeX := edgeEstimate r.edgeX r.collarBuilt r.tipX r.collarX
            edgeY := edgeEstimate r.edgeY r.collarBuilt r.tipY r.collarY
            saturated := (adjustLevel set level r).2
            baselineStale := r.stale
            hoverFiltered := filtered } }
    pen :=
      { pen with
        peakX := (peakEntry r.tipX).loop
        peakY := (peakEntry r.tipY).loop
        weakCount := 0
        lastX := shown.1
        lastY := shown.2
        lastPressure := pressure
        lastTiltX := tiltX
        lastTiltY := tiltY }
    level := (adjustLevel set level r).1
    strength := strengthAt level (peakEntry r.tipX).amp
    lost := false }

/-- The strength of the cycle is below the loss threshold (R79). -/
def cycleWeak (set : Settings) (level : Nat) (r : CycleRecord) : Bool :=
  strengthAt level (peakEntry r.tipX).amp < set.lossThreshold

/-- One estimate of a closed cycle record (R75). -/
def estimate (set : Settings) (c : Chan) (level : Nat) (r : CycleRecord) (pen : Pen) : Estimate :=
  if cycleWeak set level r then estimateWeak set level r pen else estimateStrong set c level r pen

/-- The contents of a held report (R92). -/
def heldContents (level : Nat) (pen : Pen) : Contents where
  level := level
  x := pen.lastX
  y := pen.lastY
  pressure := heldPressure pen
  tiltX := pen.lastTiltX
  tiltY := pen.lastTiltY
  flags := heldFlags pen.down

end Sys2Proof.Machine
end

