-- ==== Sys2Proof/Machine/Line.lean ====
section
/-! DEFINITION. The line code of the link: symbols, 8b/10b code groups, running disparity (R140). -/

namespace Sys2Proof.Machine

/-- A symbol of the line, or ten bits that are none (R140). -/
inductive Symbol where
  | idle
  | start
  | stop
  | data (octet : Byte)
  | invalid
  deriving DecidableEq, Repr

/-- 5b/6b code at negative disparity, bits abcdei (PRESUMED: the 8b/10b code that R140 names, log 6). -/
def code6 (x : Nat) : Nat :=
  match x with
  | 0 => 0b100111 | 1 => 0b011101 | 2 => 0b101101 | 3 => 0b110001
  | 4 => 0b110101 | 5 => 0b101001 | 6 => 0b011001 | 7 => 0b111000
  | 8 => 0b111001 | 9 => 0b100101 | 10 => 0b010101 | 11 => 0b110100
  | 12 => 0b001101 | 13 => 0b101100 | 14 => 0b011100 | 15 => 0b010111
  | 16 => 0b011011 | 17 => 0b100011 | 18 => 0b010011 | 19 => 0b110010
  | 20 => 0b001011 | 21 => 0b101010 | 22 => 0b011010 | 23 => 0b111010
  | 24 => 0b110011 | 25 => 0b100110 | 26 => 0b010110 | 27 => 0b110110
  | 28 => 0b001110 | 29 => 0b101110 | 30 => 0b011110 | _ => 0b101011

/-- 3b/4b code at negative disparity, bits fghj, the primary code for 7 (PRESUMED, log 6). -/
def code4 (y : Nat) : Nat :=
  match y with
  | 0 => 0b1011 | 1 => 0b1001 | 2 => 0b0101 | 3 => 0b1100
  | 4 => 0b1101 | 5 => 0b1010 | 6 => 0b0110 | _ => 0b1110

/-- The number of ones in the low n bits. -/
def ones : Nat → Nat → Nat
  | 0, _ => 0
  | n + 1, w => w % 2 + ones n (w / 2)

/-- The 6-bit block of a value at a disparity (set: positive). -/
def block6 (positive : Bool) (x : Nat) : Nat :=
  if positive && (ones 6 (code6 x) != 3 || x == 7) then 63 - code6 x else code6 x

/-- The disparity after a block of n bits: unchanged by a balanced block, otherwise the block's own. -/
def disparityAfter (n w : Nat) (positive : Bool) : Bool :=
  if 2 * ones n w = n then positive else n < 2 * ones n w

/-- The values of the five low bits for which the alternate code of 7 stands (PRESUMED, log 6). -/
def alternate7 (positive : Bool) (x : Nat) : Bool :=
  if positive then x == 11 || x == 13 || x == 14 else x == 17 || x == 18 || x == 20

/-- The 4-bit block of a value after the 6-bit block of x, at the disparity between the blocks. -/
def block4 (positive : Bool) (x y : Nat) : Nat :=
  if y = 7 && alternate7 positive x then
    if positive then 0b1000 else 0b0111
  else if positive && (ones 4 (code4 y) != 2 || y == 3) then 15 - code4 y else code4 y

/-- The data code group of an octet at a disparity. -/
def dataGroup (positive : Bool) (octet : Nat) : Nat :=
  let b6 := block6 positive (octet % 32)
  b6 * 16 + block4 (disparityAfter 6 b6 positive) (octet % 32) (octet / 32)

/-- The code group of a symbol at a disparity (R140): K28.5 idle, K27.7 start, K29.7 end. -/
def codeGroup (positive : Bool) : Symbol → Pattern
  | .idle => if positive then 0b1100000101 else 0b0011111010
  | .start => if positive then 0b0010010111 else 0b1101101000
  | .stop => if positive then 0b0100010111 else 0b1011101000
  | .data octet => BitVec.ofNat 10 (dataGroup positive octet.toNat)
  | .invalid => 0

/-- The running disparity after a symbol has been sent. -/
def nextDisparity (positive : Bool) (s : Symbol) : Bool :=
  disparityAfter 10 (codeGroup positive s).toNat positive

/-- The code groups of symbols sent one after the other from a disparity. -/
def codeGroups (positive : Bool) : List Symbol → List Pattern
  | [] => []
  | s :: rest => codeGroup positive s :: codeGroups (nextDisparity positive s) rest

/-- The running disparity after symbols have been sent. -/
def disparityOver (positive : Bool) (l : List Symbol) : Bool := l.foldl nextDisparity positive

/-- The symbols of a frame on the line (R140). -/
def frameSymbols (octets : List Byte) : List Symbol := .start :: octets.map .data ++ [.stop]

/-- The code groups with which a frame was put on the line. -/
def Sent.groups (f : Sent) : List Pattern := codeGroups f.disparity (frameSymbols f.octets)

/-- The line bits of a code group in the order sent, a first (R140). -/
def lineBits (g : Pattern) : List Bool := (List.range 10).map fun k => g.getLsbD (9 - k)

/-- The octet whose data code group the ten bits are, at either disparity. -/
def dataOf (g : Pattern) : Option Byte :=
  ((List.range 256).find? fun n => g.toNat == dataGroup false n || g.toNat == dataGroup true n).map (BitVec.ofNat 8)

/-- The symbol ten received bits are, at either running disparity (R140). -/
def classify (g : Pattern) : Symbol :=
  if g = codeGroup false .idle || g = codeGroup true .idle then .idle
  else if g = codeGroup false .start || g = codeGroup true .start then .start
  else if g = codeGroup false .stop || g = codeGroup true .stop then .stop
  else
    match dataOf g with
    | some b => .data b
    | none => .invalid

end Sys2Proof.Machine
end

