-- ==== Sys2Proof/Machine/Kinds.lean ====
section
/-! DEFINITION. The eight frame kinds: their values, lengths and classes (R155). -/

namespace Sys2Proof.Machine

/-- The eight kinds of frame (R155). -/
inductive Kind where
  | sighting
  | notice
  | border
  | report
  | yield
  | take
  | lost
  | restart
  deriving DecidableEq, Repr

/-- The value of octet 0 for each kind (R155). -/
def kindValue : Kind → Nat
  | .sighting => 17
  | .notice => 18
  | .border => 19
  | .report => 20
  | .yield => 21
  | .take => 22
  | .lost => 23
  | .restart => 31

/-- The content octets of each kind (R155). -/
def kindLength : Kind → Nat
  | .sighting => 13
  | .notice => 12
  | .border => 24
  | .report => 24
  | .yield => 18
  | .take => 9
  | .lost => 8
  | .restart => 5

/-- The transmit class of each kind (R150). -/
def kindClass : Kind → Nat
  | .restart => 3
  | .yield => 3
  | .take => 3
  | .lost => 3
  | .notice => 2
  | .sighting => 2
  | .border => 1
  | .report => 0

/-- The kind an octet 0 names, none for an unknown kind (R155). -/
def kindOf (octet : Byte) : Option Kind :=
  if octet.toNat = 17 then some .sighting
  else if octet.toNat = 18 then some .notice
  else if octet.toNat = 19 then some .border
  else if octet.toNat = 20 then some .report
  else if octet.toNat = 21 then some .yield
  else if octet.toNat = 22 then some .take
  else if octet.toNat = 23 then some .lost
  else if octet.toNat = 31 then some .restart
  else none

/-- The octet 0 of a kind. -/
def kindByte (k : Kind) : Byte := BitVec.ofNat 8 (kindValue k)

end Sys2Proof.Machine
end

