-- ==== Sys2Proof/Machine/Operands.lean ====
section
/-! DEFINITION. The octets of frames: big-endian fields, CRC, the layout of every kind written and read (R143, R155 to R160). -/

namespace Sys2Proof.Machine

/-! ### Octets -/

/-- One octet of a number. -/
def byteOf (n : Nat) : Byte := BitVec.ofNat 8 n

/-- Two octets, most significant first. -/
def bytes2 (n : Nat) : List Byte := [byteOf (n / 256), byteOf n]

/-- Three octets, most significant first. -/
def bytes3 (n : Nat) : List Byte := [byteOf (n / 65536), byteOf (n / 256), byteOf n]

/-- The octet at a place, 0 beyond the end. -/
def octetAt (o : List Byte) (k : Nat) : Nat := (o.getD k 0).toNat

/-- The two-octet number at a place. -/
def word2 (o : List Byte) (k : Nat) : Nat := octetAt o k * 256 + octetAt o (k + 1)

/-- The three-octet number at a place. -/
def word3 (o : List Byte) (k : Nat) : Nat := word2 o k * 256 + octetAt o (k + 2)

/-- A two-octet number read in two's complement (R155). -/
def signed16 (n : Nat) : Int := if n < 32768 then Int.ofNat n else Int.ofNat n - 65536

/-- A signed number as a two-octet two's complement value (R155). -/
def unsigned16 (v : Int) : Nat := (v % 65536).toNat

/-! ### CRC (R143) -/

/-- One bit of the CRC with polynomial 0x1021: the register shifted with the bit already at its top. -/
def crcShift (c : Nat) : Nat :=
  if c < 32768 then 2 * c else (2 * c) % 65536 ^^^ 0x1021

/-- Eight bits of the CRC. -/
def crcShift8 (c : Nat) : Nat :=
  crcShift (crcShift (crcShift (crcShift (crcShift (crcShift (crcShift (crcShift c)))))))

/-- The CRC carried over one octet, most significant bit first. -/
def crcOctet (c : Nat) (b : Byte) : Nat := crcShift8 (c ^^^ (b.toNat * 256))

/-- The CRC of octets, start value 0xFFFF, no final inversion. -/
def crcOf (o : List Byte) : Nat := o.foldl crcOctet 0xFFFF

/-- Content octets with their CRC added. -/
def withCrc (o : List Byte) : List Byte := o ++ bytes2 (crcOf o)

/-- The last two octets hold the CRC of the others (R143). -/
def crcGood (o : List Byte) : Bool :=
  o.drop (o.length - 2) == bytes2 (crcOf (o.take (o.length - 2)))

/-! ### Writing a frame -/

/-- The side value of a wants octet (R159). -/
def sideValue : Option Side → Nat
  | none => 0
  | some .low => 1
  | some .high => 2

/-- The wants octet (R159). -/
def wantsOctet (x y : WantField) : Nat := sideValue x.side * 64 + x.count * 16 + sideValue y.side * 4 + y.count

/-- A mark as 0 or 1. -/
def markValue (b : Bool) : Nat := if b then 1 else 0

/-- The axis-and-marks octet of a BORDER (R160). -/
def borderMarks (b : Border) : Nat :=
  (match b.axis with | .X => 0 | .Y => 1) * 128 + b.count * 16 + markValue b.collarAbsent * 4
    + markValue b.tipClipped * 2 + markValue b.collarClipped

/-- Three amplitude places (R160); places beyond the list carry 0. -/
def places3 (l : List Nat) : List Byte := bytes2 (l.getD 0 0) ++ bytes2 (l.getD 1 0) ++ bytes2 (l.getD 2 0)

/-- The kind of a frame. -/
def Frame.kind : Frame → Kind
  | .sighting .. => .sighting
  | .notice .. => .notice
  | .border _ => .border
  | .report _ => .report
  | .yield _ => .yield
  | .take .. => .take
  | .lost .. => .lost
  | .restart => .restart

/-- The octets between header and CRC (R157, R159, R160). -/
def Frame.fields : Frame → List Byte
  | .sighting ch strength x y => [byteOf (chanIndex ch)] ++ bytes3 strength ++ bytes2 x ++ bytes2 y
  | .notice ch cycle strength wx wy =>
      [byteOf (chanIndex ch)] ++ bytes2 cycle ++ bytes3 strength ++ [byteOf (wantsOctet wx wy)]
  | .border b =>
      [byteOf (chanIndex b.ch), byteOf b.holder] ++ bytes2 b.cycle ++ [byteOf (borderMarks b)] ++ bytes2 b.first
        ++ places3 b.tip ++ places3 b.collar
  | .report r =>
      [byteOf (chanIndex r.ch * 16 + r.level)] ++ bytes2 r.cycle ++ bytes3 r.x ++ bytes3 r.y ++ bytes2 r.pressure
        ++ bytes2 (unsigned16 r.tiltX) ++ bytes2 (unsigned16 r.tiltY) ++ bytes2 r.flags.toWord
        ++ [byteOf r.drop, byteOf r.overrun]
  | .yield f =>
      [byteOf (chanIndex f.ch), byteOf f.target] ++ bytes2 f.cycle ++ bytes3 f.x ++ bytes3 f.y
        ++ [byteOf (markValue f.contact * 16 + f.level)] ++ bytes2 f.pressure
  | .take ch releaser cycle => [byteOf (chanIndex ch), byteOf releaser] ++ bytes2 cycle
  | .lost ch cycle => [byteOf (chanIndex ch)] ++ bytes2 cycle
  | .restart => []

/-- All content octets of a frame (R155). -/
def Frame.encode (origin hop : Nat) (f : Frame) : List Byte :=
  withCrc ([kindByte f.kind, byteOf origin, byteOf hop] ++ f.fields)

/-! ### Reading a frame -/

/-- The origin of a frame (R155). -/
def originOf (o : List Byte) : Nat := octetAt o 1

/-- The hop count of a frame (R155). -/
def hopOf (o : List Byte) : Nat := octetAt o 2

/-- The kind of received octets, when known and of the kind's length (R146). -/
def frameKind (o : List Byte) : Option Kind :=
  match kindOf (o.getD 0 0) with
  | some k => if o.length = kindLength k then some k else none
  | none => none

/-- A channel octet, none for a value other than 0 or 1 (R156). -/
def readChan (n : Nat) : Option Chan :=
  match n with
  | 0 => some .A
  | 1 => some .B
  | _ => none

/-- A side value; `none` outside for the value 3 (R156, R159). -/
def readSide (n : Nat) : Option (Option Side) :=
  match n with
  | 0 => some none
  | 1 => some (some .low)
  | 2 => some (some .high)
  | _ => none

/-- A tile index field, none for 32 or more (R156). -/
def readTile (n : Nat) : Option Nat := if n < 32 then some n else none

/-- A level part, none above 3 (R156). -/
def readLevel (n : Nat) : Option Nat := if n ≤ 3 then some n else none

/-- Three amplitude places (R160). -/
def readPlaces (o : List Byte) (k : Nat) : List Nat := [word2 o k, word2 o (k + 2), word2 o (k + 4)]

/-- A SIGHTING's fields (R159). -/
def readSighting (o : List Byte) : Option Frame :=
  (readChan (octetAt o 3)).map fun ch => .sighting ch (word3 o 4) (word2 o 7) (word2 o 9)

/-- A NOTICE's fields (R159). -/
def readNotice (o : List Byte) : Option Frame :=
  match readChan (octetAt o 3), readSide (octetAt o 9 / 64), readSide (octetAt o 9 / 4 % 4) with
  | some ch, some sx, some sy =>
      some (.notice ch (word2 o 4) (word3 o 6) ⟨sx, octetAt o 9 / 16 % 4⟩ ⟨sy, octetAt o 9 % 4⟩)
  | _, _, _ => none

/-- A BORDER's fields (R160); a count of 0 makes it malformed (R156). -/
def readBorder (o : List Byte) : Option Frame :=
  match readChan (octetAt o 3), readTile (octetAt o 4) with
  | some ch, some holder =>
      if octetAt o 7 / 16 % 4 = 0 then none
      else
        some (.border
          { ch := ch, holder := holder, cycle := word2 o 5
            axis := if octetAt o 7 / 128 = 0 then .X else .Y
            count := octetAt o 7 / 16 % 4
            collarAbsent := octetAt o 7 / 4 % 2 == 1
            tipClipped := octetAt o 7 / 2 % 2 == 1
            collarClipped := octetAt o 7 % 2 == 1
            first := word2 o 8, tip := readPlaces o 10, collar := readPlaces o 16 })
  | _, _ => none

/-- A REPORT's fields (R157). -/
def readReport (o : List Byte) : Option Frame :=
  match readChan (octetAt o 3 / 16), readLevel (octetAt o 3 % 16) with
  | some ch, some level =>
      some (.report
        { ch := ch, level := level, cycle := word2 o 4, x := word3 o 6, y := word3 o 9, pressure := word2 o 12
          tiltX := signed16 (word2 o 14), tiltY := signed16 (word2 o 16), flags := Flags.ofWord (word2 o 18)
          drop := octetAt o 20, overrun := octetAt o 21 })
  | _, _ => none

/-- A YIELD's fields (R159): tip down when the octet div 16 is odd. -/
def readYield (o : List Byte) : Option Frame :=
  match readChan (octetAt o 3), readTile (octetAt o 4), readLevel (octetAt o 13 % 16) with
  | some ch, some target, some level =>
      some (.yield
        { ch := ch, target := target, cycle := word2 o 5, x := word3 o 7, y := word3 o 10, level := level
          contact := octetAt o 13 / 16 % 2 == 1, pressure := word2 o 14 })
  | _, _, _ => none

/-- A TAKE's fields (R159). -/
def readTake (o : List Byte) : Option Frame :=
  match readChan (octetAt o 3), readTile (octetAt o 4) with
  | some ch, some releaser => some (.take ch releaser (word2 o 5))
  | _, _ => none

/-- A LOST's fields (R159). -/
def readLost (o : List Byte) : Option Frame :=
  (readChan (octetAt o 3)).map fun ch => .lost ch (word2 o 4)

/-- The fields of octets of a kind, none when a field has a value R156 refuses. -/
def readFrame (k : Kind) (o : List Byte) : Option Frame :=
  match k with
  | .sighting => readSighting o
  | .notice => readNotice o
  | .border => readBorder o
  | .report => readReport o
  | .yield => readYield o
  | .take => readTake o
  | .lost => readLost o
  | .restart => some .restart

/-- An origin that a tile within a surface can bear (R156). -/
def tileOrigin (n : Nat) : Bool := n < 30 && n % 8 < 6

/-- A copy read by its fields, none when it is not well formed (R156). -/
def readCopy (k : Kind) (o : List Byte) : Option Frame :=
  if k = .restart ∨ tileOrigin (originOf o) = true then readFrame k o else none

end Sys2Proof.Machine
end

