-- ==== Sys2Proof/Machine/OwnLink.lean ====
section
/-! DEFINITION. The sending half of the tile link: own queue, drop count, link-out (R140, R147 to R152). -/

namespace Sys2Proof.Machine

/-- The class of a frame (R150). -/
def Frame.cls (f : Frame) : Nat := kindClass f.kind

/-- The lowest class among frames. -/
def lowestClass (l : List Frame) : Nat := (l.map Frame.cls).foldl min 3

/-- The highest class among frames. -/
def highestClass (l : List Frame) : Nat := (l.map Frame.cls).foldl max 0

/-- The oldest frame of the lowest class discarded (R151). -/
def discardOne (l : List Frame) : List Frame := l.eraseP fun f => f.cls == lowestClass l

/-- A frame joins the own queue; beyond 8 one of the nine is discarded and counted (R151, R152). -/
def Link.push (f : Frame) (l : Link) : Link :=
  if l.own.length < 8 then { l with own := l.own ++ [f] }
  else { l with own := discardOne (l.own ++ [f]), drop := min 255 (l.drop + 1) }

/-- The tracker queues a frame. -/
def queueFrame (f : Frame) (s : State) : State := { s with link := s.link.push f }

/-- The frame the own queue names first: highest class, oldest (R150). -/
def Link.nextOwn (l : Link) : Option Frame := l.own.find? fun f => f.cls == highestClass l.own

/-- The own queue without the frame it names first. -/
def Link.restOwn (l : Link) : List Frame := l.own.eraseP fun f => f.cls == highestClass l.own

/-- The drop count written into a REPORT that leaves (R152). -/
def fillDrop (drop : Nat) : Frame → Frame
  | .report r => .report { r with drop := drop }
  | f => f

/-- The drop count after a frame has left (R152). -/
def dropAfter (drop : Nat) (f : Frame) : Nat := if f.kind = .report then 0 else drop

/-- The idle symbols sent before a frame that begins no sooner than a moment (log 18). -/
def idlesBefore (moment freeAt : Nat) : Nat :=
  if (moment - freeAt) % symbolTime = 0 then (moment - freeAt) / symbolTime else (moment - freeAt) / symbolTime + 1

/-- Link-out begins a frame at its first free symbol time at or after the clock (R140, R149, log 18). -/
def putOnLine (own : Bool) (octets : List Byte) (s : State) : State :=
  let k := idlesBefore s.now s.link.freeAt
  let start := s.link.freeAt + symbolTime * k
  let d := disparityOver s.link.disparity (List.replicate k .idle)
  { s with
    now := start
    link := { s.link with
      sent := some { octets := octets, own := own, start := start, disparity := d }
      disparity := disparityOver d (frameSymbols octets ++ [.idle])
      freeAt := start + symbolTime * (octets.length + 3) } }

/-- The forwarded form of a received frame: hop count raised by 1, CRC made anew (R147). -/
def forwarded (o : List Byte) : List Byte :=
  withCrc ((o.take (o.length - 2)).set 2 (byteOf (hopOf o + 1)))

/-- The oldest frame of the insertion buffer leaves (R147, R148). -/
def sendForward (s : State) : State :=
  match s.link.buffer with
  | [] => s
  | o :: rest => putOnLine false (forwarded o) { s with link := { s.link with buffer := rest } }

/-- The own frame named first leaves, when no frame waits in the insertion buffer (R149, R150, R152). -/
def sendOwn (s : State) : State :=
  match s.link.buffer, s.link.nextOwn with
  | [], some f =>
      putOnLine true ((fillDrop s.link.drop f).encode (ownIndex s.straps) 0)
        { s with link := { s.link with own := s.link.restOwn, drop := dropAfter s.link.drop f } }
  | _, _ => s

end Sys2Proof.Machine
end

