-- ==== Sys2Proof/Machine/Seeking.lean ====
section
/-! DEFINITION. Finding a pen: tile modes, seek scheduler, backoff, claim, defer, and leaving a channel state (R93 to R109, R120). -/

namespace Sys2Proof.Machine

/-! ### Seek scheduler (R96 to R99) -/

/-- The X groups in the order a pass takes them (R97). -/
def xOrder : List Nat := [0, 4, 2, 1, 5, 3]

/-- The Y groups in the order a Y stage takes them (R98). -/
def yOrder : List Nat := [0, 2, 1, 3]

/-- The X group at a position of the X order. -/
def xGroup (pos : Nat) : Nat := xOrder.getD pos 0

/-- The Y group at a position of the Y order. -/
def yGroup (pos : Nat) : Nat := yOrder.getD pos 0

/-- The seek interval: 20 ms in DORMANT, otherwise 4 ms (R99). -/
def seekInterval (m : Mode) : Nat := if m = .dormant then msec 20 else msec 4

/-- An enabled channel in SEEK. -/
def State.seeks (s : State) (c : Chan) : Bool := s.enabled c && s.inSeek c

/-- The channel the next pass goes to: the turn's if it is in SEEK, otherwise the other (R96). -/
def passChannel (s : State) : Option Chan :=
  if s.seeks s.seek.turn then some s.seek.turn
  else if s.seeks (otherChan s.seek.turn) then some (otherChan s.seek.turn)
  else none

/-- A pass begins, when none is in progress and an enabled channel is in SEEK; it requests its first X stage (R96). -/
def beginPass (s : State) : Reaction :=
  match s.seek.pass, passChannel s with
  | none, some c =>
      ({ s with seek := { s.seek with pass := some { ch := c, stage := .x 0 }, turn := otherChan c } },
        some { ch := c, ask := .seekX (xGroup 0) })
  | _, _ => (s, none)

/-- A pass ends and the seek timer starts with one interval (R99). -/
def endPass (s : State) : State :=
  { s with seek := { s.seek with pass := none, timer := some (s.now + seekInterval s.mode) } }

/-- A seek request of a channel. -/
def Request.seeksFor (c : Chan) (r : Request) : Bool := r.ch == c && !r.ask.tracks

/-- A tracking request of a channel. -/
def Request.tracksFor (c : Chan) (r : Request) : Bool := r.ch == c && r.ask.tracks

/-- A channel that leaves SEEK gives up a pass that names it (R102). -/
def abandonPass (c : Chan) (s : State) : State :=
  match s.seek.pass with
  | some p =>
      if p.ch = c then endPass (abandonRunning (Job.seeks c) (withdraw (Request.seeksFor c) s)) else s
  | none => s

/-- The pass moves to the next X group, or is complete without a find (R97). -/
def nextGroup (c : Chan) (pos : Nat) (s : State) : Reaction :=
  if pos + 1 < 6 then
    ({ s with seek := { s.seek with pass := some { ch := c, stage := .x (pos + 1) } } },
      some { ch := c, ask := .seekX (xGroup (pos + 1)) })
  else (endPass s, none)

/-! ### Backoff (R100, R101) -/

/-- The LFSR's feedback: 1 when an odd number of the weights 32768, 8192, 4096 and 1024 are present (R101). -/
def lfsrFeedback (v : Nat) : Nat := (v / 32768 + v / 8192 + v / 4096 + v / 1024) % 2

/-- One step of the LFSR (R101). -/
def lfsrStep (v : Nat) : Nat := 2 * v % 65536 + lfsrFeedback v

/-- The seed of a tile (R101). -/
def lfsrSeed (st : Straps) : Nat := ownIndex st * 1021 + 1

/-- A disturbed seek abandons the pass and starts the backoff (R100). -/
def backOff (s : State) : State :=
  { s with seek := { s.seek with
      pass := none
      lfsr := lfsrStep s.seek.lfsr
      backoff := some (s.now + usec ((1 + lfsrStep s.seek.lfsr % 8) * 40)) } }

/-! ### Tile modes (R93, R94) -/

/-- A DORMANT tile returns to ACTIVE; a seek timer with more than 4 ms left is shortened (R94). -/
def wake (s : State) : State :=
  if s.mode = .dormant then
    { s with
      mode := .active
      seek := { s.seek with timer := s.seek.timer.map fun t => min t (s.now + msec 4) } }
  else s

/-- The dormant timer starts with 10 s if every enabled channel is in SEEK, otherwise it is stopped (R93). -/
def timeDormant (s : State) : State :=
  { s with dormant := if s.allSeek then some (s.now + msec 10000) else none }

/-! ### Leaving a state (R95, R102, R110, R120) -/

/-- A channel's state set. -/
def setState (c : Chan) (st : ChanState) (s : State) : State :=
  s.modChan c fun ch => { ch with state := st }

/-- The cycle in progress of a channel. -/
def Channel.current (ch : Channel) : Option Cycle :=
  match ch.cycles with
  | some cs => cs.current
  | none => none

/-- A cycle as it lives on after it has been abandoned (R120). -/
def Cycle.forsaken (cy : Cycle) : Cycle := { cy with abandoned := true, barrier := none, border := none }

/-- The channel's cycle is abandoned: requests withdrawn, the tracking sequence in progress marked; the cycle lives on until that sequence ends, or ends at once (R120). -/
def abandonCycle (c : Chan) (s : State) : State :=
  let s := withdraw (Request.tracksFor c) s
  let running := isRunning (Job.tracks c) s
  let s := abandonRunning (Job.tracks c) s
  s.modChan c fun ch =>
    match ch.current with
    | some cy => if running then { ch with abandoned := some cy.forsaken } else ch
    | none => ch

/-- Cycle record, pen record and cycle state discarded (R58, R73, R110). -/
def dropRecords (c : Chan) (s : State) : State :=
  s.modChan c fun ch => { ch with record := none, pen := none, cycles := none }

/-- What leaving the channel's present state takes with it (R102, R120). -/
def leaveState (c : Chan) (s : State) : State :=
  match (s.chan c).state with
  | .seek => abandonPass c s
  | .hold => dropRecords c (abandonCycle c s)
  | .yield _ => dropRecords c (abandonCycle c s)
  | _ => s

/-- The channel enters SEEK; the dormant timer starts if it was the last, a pass begins if both timers are stopped (R93, R96). -/
def enterSeek (c : Chan) (s : State) : Reaction :=
  let s := timeDormant (setState c .seek (leaveState c s))
  match s.seek.timer, s.seek.backoff with
  | none, none => beginPass s
  | _, _ => (s, none)

/-- The channel enters a state other than SEEK: the dormant timer stops (R93). -/
def moveTo (c : Chan) (st : ChanState) (s : State) : State :=
  { setState c st (leaveState c s) with dormant := none }

/-- The channel enters STANDBY with a view of the holder, or refreshes it (R133, R134). -/
def standBy (c : Chan) (holder : Nat) (s : State) : State := moveTo c (.standby holder (s.now + msec 50)) s

/-- The channel enters DEFER with 5 ms (R107). -/
def deferTo (c : Chan) (s : State) : State := moveTo c (.defer (s.now + msec 5)) s

/-! ### Finds and sightings (R103, R104) -/

/-- A find: SIGHTING queued, pass over, channel in CLAIM with 600 µs; a DORMANT tile wakes (R94, R99, R103). -/
def find (c : Chan) (strength x y : Nat) (s : State) : State :=
  let s := queueFrame (.sighting c strength x y) (endPass (wake s))
  moveTo c (.claim { strength := strength, coarseX := x, coarseY := y, best := none, timer := s.now + usec 600 }) s

/-- One sighting, strength and origin, is stronger than another (R104). -/
def stronger (a b : Nat × Nat) : Bool := b.1 < a.1 || (a.1 == b.1 && a.2 < b.2)

/-- The claim record after another's sighting (R104). -/
def Claim.hear (v : Nat × Nat) (c : Claim) : Claim :=
  match c.best with
  | none => { c with best := some v }
  | some b => if stronger v b then { c with best := some v } else c

/-- The own sighting wins the claim (R105). -/
def Claim.wins (own : Nat) (c : Claim) : Bool :=
  match c.best with
  | none => true
  | some b => stronger (c.strength, own) b

/-! ### Results of seek sequences (R97, R98, R100) -/

/-- An X stage result (R97): its window start w, eight X paths at the channel's tip frequency. -/
def seekXResult (c : Chan) (w pos : Nat) (s : State) : Reaction :=
  let p := peakEntry (filledRun s .X (coilFreq c .tip) w)
  if s.settings.findThreshold ≤ p.amp then
    ({ s with seek := { s.seek with
        pass := some { ch := c, stage := .y pos (xGroup pos) p.loop p.amp 0 } } },
      some { ch := c, ask := .seekY p.loop (xGroup pos) (yGroup 0) })
  else nextGroup c pos s

/-- A Y stage result (R98): its window start w, eight Y paths. -/
def seekYResult (c : Chan) (w pos group peak strength posY : Nat) (s : State) : Reaction :=
  let p := peakEntry (filledRun s .Y (coilFreq c .tip) w)
  if s.settings.findThreshold ≤ p.amp then (find c strength peak p.loop s, none)
  else if posY + 1 < 4 then
    ({ s with seek := { s.seek with
        pass := some { ch := c, stage := .y pos group peak strength (posY + 1) } } },
      some { ch := c, ask := .seekY peak group (yGroup (posY + 1)) })
  else nextGroup c pos s

/-- A seek result that is not abandoned is delivered (R97, R98, R100). -/
def seekResult (c : Chan) (seq : Sequence) (s : State) : Reaction :=
  match s.seek.pass with
  | some p =>
      if p.ch ≠ c then (s, none)
      else if seq.disturbed then (backOff s, none)
      else
        match p.stage with
        | .x pos => seekXResult c seq.windowX pos s
        | .y pos group peak strength posY => seekYResult c seq.windowY pos group peak strength posY s
  | none => (s, none)

end Sys2Proof.Machine
end

