-- ==== Sys2Proof/Machine/Holding.lean ====
section
/-! DEFINITION. Holding a pen: entry to HOLD, the tracking cycle, reports, handover and loss at the holder (R57, R105, R110 to R120, R126 to R131, R137). -/

namespace Sys2Proof.Machine

/-! ### The start of a cycle (R112, R113) -/

/-- The wants a NOTICE gives for a recorded want (R113). -/
def wantField : Option Want → WantField
  | none => { side := none, count := 0 }
  | some w => { side := some w.side, count := w.count }

/-- The number of the next cycle (R112). -/
def CycleState.nextNumber (cs : CycleState) : Nat :=
  match cs.number with
  | none => cs.firstNumber
  | some n => (n + 1) % 65536

/-- A cycle just begun (R113). -/
def newCycle (now : Nat) (handover : Bool) : Cycle where
  phase := .noticeWait
  attempt := 1
  ringFault := false
  abandoned := false
  barrier := some (now + usec 600)
  border := none
  gotX := false
  gotY := false
  handover := handover

/-- A cycle starts: number, cycle record, NOTICE, barrier timer (R113). -/
def startCycle (c : Chan) (s : State) : State :=
  match (s.chan c).cycles, (s.chan c).pen with
  | some cs, some pen =>
      let n := cs.nextNumber
      let r := newRecord s.straps s.settings pen n
      let s := s.modChan c fun ch =>
        { ch with
          record := some r
          cycles := some { cs with
            number := some n
            current := some (newCycle s.now (cs.byTake && cs.number.isNone)) } }
      queueFrame (.notice c n (s.chan c).lastStrength (wantField r.wantX) (wantField r.wantY)) s
  | _, _ => s

/-- The first cycle of a hold starts at entry, unless an abandoned cycle's sequence still runs (R112). -/
def startFirst (c : Chan) (s : State) : State :=
  match (s.chan c).abandoned with
  | none => startCycle c s
  | some _ => s

/-- The cycle state at entry to HOLD, the report timer started with one interval (R110, R111). -/
def newCycles (set : Settings) (now first : Nat) (byTake : Bool) : CycleState where
  timer := now + reportInterval set
  number := none
  firstNumber := first
  byTake := byTake
  current := none
  overrun := 0
  spacing := 0

/-- The channel enters HOLD with its records; its arming record is discarded (R36, R57, R74, R110, R125). -/
def enterHold (c : Chan) (pen : Pen) (level strength first : Nat) (byTake : Bool) (s : State) : State :=
  (moveTo c .hold s).modChan c fun ch =>
    { ch with
      level := level
      lastStrength := strength
      pen := some pen
      record := none
      cycles := some (newCycles s.settings s.now first byTake)
      arming := none }

/-- A claim is decided (R105). -/
def decideClaim (c : Chan) (cl : Claim) (s : State) : State :=
  if cl.wins (ownIndex s.straps) then
    startFirst c (enterHold c (penOfClaim cl) 3 cl.strength 0 false s)
  else deferTo c s

/-- A tile takes a pen from a YIELD of an origin (R131). -/
def takePen (origin : Nat) (f : YieldFields) (s : State) : State :=
  let s := enterHold f.ch (penOfYield s.settings f) f.level 0 ((f.cycle + 1) % 65536) true s
  startFirst f.ch (queueFrame (.take f.ch origin f.cycle) s)

/-! ### Tip and collar (R114 to R116) -/

/-- The cycle in progress changed. -/
def modCycle (c : Chan) (f : Cycle → Cycle) (s : State) : State :=
  s.modChan c fun ch =>
    match ch.cycles with
    | some cs => { ch with cycles := some { cs with current := cs.current.map f } }
    | none => ch

/-- The cycle record changed. -/
def modRecord (c : Chan) (f : CycleRecord → CycleRecord) (s : State) : State :=
  s.modChan c fun ch => { ch with record := ch.record.map f }

/-- The window starts of the channel's cycle record. -/
def cycleWindows (s : State) (c : Chan) : Nat × Nat :=
  match (s.chan c).record with
  | some r => (r.windowX, r.windowY)
  | none => (0, 0)

/-- The request for the tip sequence (R115). -/
def askTip (s : State) (c : Chan) : Request := { ch := c, ask := .tip (cycleWindows s c).1 (cycleWindows s c).2 }

/-- The request for the collar sequence (R116). -/
def askCollar (s : State) (c : Chan) : Request := { ch := c, ask := .collar (cycleWindows s c).1 (cycleWindows s c).2 }

/-- The barrier is reached, by return or, with the ring fault mark, by expiry (R114). -/
def reachBarrier (c : Chan) (fault : Bool) (s : State) : Reaction :=
  let s := modCycle c (fun cy => { cy with phase := .tip, barrier := none, ringFault := fault }) s
  (s, some (askTip s c))

/-! ### The end of a cycle (R119, R126, R127, R137) -/

/-- The REPORT completed from the contents (R119); the link fills in the drop count when it leaves. -/
def completeReport (c : Chan) (ct : Contents) (cs : CycleState) (cy : Cycle) (disturbed imageDefault : Bool) : Report where
  ch := c
  level := ct.level
  cycle := cs.number.getD 0
  x := ct.x
  y := ct.y
  pressure := ct.pressure
  tiltX := ct.tiltX
  tiltY := ct.tiltY
  flags := trackerFlags ct.flags disturbed cy.ringFault cy.handover imageDefault
  drop := 0
  overrun := cs.overrun

/-- The yield test passes: 128 units or more past a border of the tile's span (R126). -/
def yieldCalled (st : Straps) (x y : Nat) : Bool := pastBorder st .X 128 x || pastBorder st .Y 128 y

/-- The YIELD of a passed test (R127). -/
def yieldOf (c : Chan) (ct : Contents) (number : Nat) (ch : Channel) : YieldFields where
  ch := c
  target := ownerOf ct.x ct.y
  cycle := number
  x := ct.x
  y := ct.y
  level := ch.level
  contact := match ch.pen with
    | some p => p.down
    | none => false
  pressure := ct.pressure

/-- The yield spacing count set. -/
def setSpacing (c : Chan) (n : Nat) (s : State) : State :=
  s.modChan c fun ch =>
    match ch.cycles with
    | some cs => { ch with cycles := some { cs with spacing := n } }
    | none => ch

/-- The channel enters YIELD with 2 ms; the cycle record goes, pen record and cycle state stay (R58, R127). -/
def enterYield (c : Chan) (s : State) : State :=
  s.modChan c fun ch => { ch with state := .yield (s.now + msec 2), record := none }

/-- The yield test after a REPORT (R126, R127). -/
def yieldTest (c : Chan) (ct : Contents) (number spacing : Nat) (s : State) : State :=
  if 0 < spacing then setSpacing c (spacing - 1) s
  else if yieldCalled s.straps ct.x ct.y then
    enterYield c (queueFrame (.yield (yieldOf c ct number (s.chan c))) s)
  else s

/-- The channel is lost: LOST queued, channel to SEEK (R137). -/
def loseChannel (c : Chan) (number : Nat) (s : State) : Reaction :=
  enterSeek c (queueFrame (.lost c number) s)

/-- A cycle ends: REPORT queued with the overrun count, which becomes 0; then loss or the yield test (R119). -/
def finishCycle (c : Chan) (ct : Contents) (disturbed lost : Bool) (s : State) : Reaction :=
  match (s.chan c).cycles with
  | some cs =>
      match cs.current with
      | some cy =>
          let rep := completeReport c ct cs cy disturbed s.loader.imageDefault
          let s := queueFrame (.report rep) s
          let s := s.modChan c fun ch => { ch with cycles := some { cs with current := none, overrun := 0 } }
          if lost then loseChannel c rep.cycle s else (yieldTest c ct rep.cycle cs.spacing s, none)
      | none => (s, none)
  | none => (s, none)

/-- The border wait ends: the record is closed, the estimator runs once, the cycle ends (R70, R75, R118). -/
def endBorderWait (c : Chan) (s : State) : Reaction :=
  match (s.chan c).record, (s.chan c).pen with
  | some r, some pen =>
      let e := estimate s.settings c (s.chan c).level (closeRecord r) pen
      let s := s.modChan c fun ch =>
        { ch with record := some (closeRecord r), pen := some e.pen, level := e.level, lastStrength := e.strength }
      finishCycle c e.contents false e.lost s
  | _, _ => (s, none)

/-- A cycle ends with a held report after its second tip disturbance (R92, R115). -/
def endHeld (c : Chan) (s : State) : Reaction :=
  match (s.chan c).pen with
  | some pen => finishCycle c (heldContents (s.chan c).level pen) true false s
  | none => (s, none)

/-- Every expected BORDER frame of the cycle has been accepted (R117). -/
def allExpected (r : CycleRecord) (cy : Cycle) : Bool :=
  (r.wantX.isNone || cy.gotX) && (r.wantY.isNone || cy.gotY)

/-- The phase BORDER WAIT begins with 296 µs, and ends at once when no frame is awaited (R116, R118). -/
def beginBorderWait (c : Chan) (s : State) : Reaction :=
  let s := modCycle c (fun cy => { cy with phase := .borderWait, border := some (s.now + usec 296) }) s
  match (s.chan c).record, (s.chan c).current with
  | some r, some cy => if allExpected r cy then endBorderWait c s else (s, none)
  | _, _ => (s, none)

/-- A tip result of the cycle in progress is delivered (R115). -/
def tipResult (c : Chan) (seq : Sequence) (s : State) : Reaction :=
  match (s.chan c).current with
  | some cy =>
      if cy.phase ≠ .tip then (s, none)
      else if !seq.disturbed then
        let s := modRecord c (formTip s c seq.windowX seq.windowY) s
        let s := modCycle c (fun cy => { cy with phase := .collar }) s
        (s, some (askCollar s c))
      else if cy.attempt = 1 then
        let s := modCycle c (fun cy => { cy with attempt := 2 }) s
        (s, some (askTip s c))
      else endHeld c s
  | none => (s, none)

/-- A collar result of the cycle in progress is delivered (R116). -/
def collarResult (c : Chan) (seq : Sequence) (s : State) : Reaction :=
  match (s.chan c).current with
  | some cy =>
      if cy.phase ≠ .collar then (s, none)
      else if seq.disturbed then beginBorderWait c s
      else beginBorderWait c (modRecord c (formCollar s c seq.windowX seq.windowY) s)
  | none => (s, none)

/-- The sequence of an abandoned cycle has ended: the cycle is over, and a first cycle that waited for it starts (R112, R120). -/
def abandonedEnds (c : Chan) (s : State) : State :=
  let s := s.modChan c fun ch => { ch with abandoned := none }
  match (s.chan c).state, (s.chan c).cycles with
  | .hold, some cs => if cs.number.isNone then startCycle c s else s
  | _, _ => s

end Sys2Proof.Machine
end

