-- ==== Sys2Proof/Machine/ArmingOps.lean ====
section
/-! DEFINITION. The neighbour's part: arming, border capture, BORDER frames, and BORDER frames at the holder (R30, R117, R118, R121 to R124). -/

namespace Sys2Proof.Machine

/-! ### Arming (R121) -/

/-- What a NOTICE asks of this tile: axis, the tile's own side, first surface loop, count. -/
structure Named where
  axis : Axis
  side : Side
  first : Nat
  count : Nat
  deriving DecidableEq, Repr

/-- A want of a NOTICE from an origin names this tile (R121). -/
def namedOn (st : Straps) (origin : Nat) (ax : Axis) (w : WantField) : Option Named :=
  let oc := origin % 8
  let orow := origin / 8
  if w.count = 0 then none
  else
    match ax, w.side with
    | .X, some .low =>
        if st.col.val + 1 = oc ∧ st.row.val = orow then
          some { axis := .X, side := .high, first := oc * 48 - w.count, count := w.count } else none
    | .X, some .high =>
        if st.col.val = oc + 1 ∧ st.row.val = orow then
          some { axis := .X, side := .low, first := oc * 48 + 48, count := w.count } else none
    | .Y, some .low =>
        if st.row.val + 1 = orow ∧ st.col.val = oc then
          some { axis := .Y, side := .high, first := orow * 32 - w.count, count := w.count } else none
    | .Y, some .high =>
        if st.row.val = orow + 1 ∧ st.col.val = oc then
          some { axis := .Y, side := .low, first := orow * 32 + 32, count := w.count } else none
    | _, none => none

/-- A NOTICE names this tile on one axis or not at all (R121). -/
def namedBy (st : Straps) (origin : Nat) (wx wy : WantField) : Option Named :=
  match namedOn st origin .X wx with
  | some n => some n
  | none => namedOn st origin .Y wy

/-- The arming record a NOTICE creates (R121). -/
def armingOf (origin cycle now : Nat) (n : Named) : Arming where
  holder := origin
  cycle := cycle
  axis := n.axis
  side := n.side
  first := n.first
  count := n.count
  tip := none
  collar := none
  timer := now + msec 1
  capturing := false

/-- The channel's arming record set. -/
def setArming (c : Chan) (a : Option Arming) (s : State) : State :=
  s.modChan c fun ch => { ch with arming := a }

/-- A NOTICE that has had its effect on the channel is considered for arming (R121). -/
def considerArming (c : Chan) (origin cycle : Nat) (wx wy : WantField) (s : State) : State :=
  if s.holding c then s
  else setArming c ((namedBy s.straps origin wx wy).map (armingOf origin cycle s.now)) s

/-! ### Border captures (R30, R122 to R124) -/

/-- What the record holds of a coil. -/
def Arming.captured (a : Arming) : Coil → Option Capture
  | .tip => a.tip
  | .collar => a.collar

/-- A coil's capture stored with its mark (R122). -/
def Arming.store (a : Arming) (k : Coil) (v : Capture) : Arming :=
  match k with
  | .tip => { a with tip := some v, capturing := false }
  | .collar => { a with collar := some v, capturing := false }

/-- A reported fall starts a border capture when the engine is IDLE and the armed coil is not yet captured (R30). -/
def fallReported (f : Nat) (s : State) : State :=
  match s.engine.running, (s.chan (freqChan f)).arming with
  | none, some a =>
      if (a.captured (freqCoil f)).isNone then
        startSequence .settle (captureSequence (freqChan f) (freqCoil f) a s.straps)
          (setArming (freqChan f) (some { a with capturing := true }) s)
      else s
  | _, _ => s

/-- A fall of foreign excitation: reported when the index is PRESENT (R27). -/
def fieldFalls (f : Nat) (s : State) : State :=
  if detectorAt f s = .present then fallReported f (setDetector f .quiet s) else s

/-- A fall taken at the moment the engine has entered IDLE, before the grant (R35). -/
def fallFirst (fall : Option Freq) (s : State) : State :=
  match fall with
  | some f => fieldFalls f.val s
  | none => s

/-- A stored capture carries a clipped mark. -/
def captureClipped (v : Capture) : Bool := v.any Prod.snd

/-- The amplitudes of a stored capture as a BORDER carries them; the places beyond the count carry 0 (R123). -/
def capturePlaces (v : Capture) : List Nat := (List.range 3).map fun k => quantised ((v.map Prod.fst).getD k 0)

/-- The BORDER of an arming record, collar absent when there is no collar capture (R123, R124). -/
def borderOf (c : Chan) (a : Arming) (tip : Capture) (collar : Option Capture) : Border where
  ch := c
  holder := a.holder
  cycle := a.cycle
  axis := a.axis
  count := a.count
  collarAbsent := collar.isNone
  tipClipped := captureClipped tip
  collarClipped := captureClipped (collar.getD [])
  first := a.first
  tip := capturePlaces tip
  collar := capturePlaces (collar.getD [])

/-- The record ends with its BORDER when both coils are captured (R123). -/
def completeArming (c : Chan) (a : Arming) (s : State) : State :=
  match a.tip, a.collar with
  | some t, some k => queueFrame (.border (borderOf c a t (some k))) (setArming c none s)
  | _, _ => setArming c (some a) s

/-- A border capture's result is delivered (R122): stored for the record that started it, if that record still exists. -/
def captureResult (c : Chan) (k : Coil) (seq : Sequence) (s : State) : State :=
  match (s.chan c).arming with
  | some a =>
      if !a.capturing then s
      else if seq.disturbed then setArming c (some { a with capturing := false }) s
      else completeArming c (a.store k (captureOf s c k a)) s
  | none => s

/-- The age of an arming record runs out (R124). -/
def ageOut (c : Chan) (a : Arming) (s : State) : State :=
  match a.tip, a.collar with
  | some t, none => queueFrame (.border (borderOf c a t none)) (setArming c none s)
  | _, _ => setArming c none s

/-! ### BORDER frames at the holder (R117, R118) -/

/-- The tracker accepts a BORDER for the cycle in progress (R117). -/
def acceptsBorder (s : State) (b : Border) : Bool :=
  s.enabled b.ch && s.inHold b.ch && b.holder == ownIndex s.straps && (s.chan b.ch).current.isSome
    && (match (s.chan b.ch).cycles with
        | some cs => cs.number == some b.cycle
        | none => false)

/-- A frame of an origin is the expected one of its axis (R117). -/
def expectedBorder (origin : Nat) (b : Border) (r : CycleRecord) (cy : Cycle) : Bool :=
  match r.want b.axis with
  | some w => w.supplier == origin && !(match b.axis with | .X => cy.gotX | .Y => cy.gotY)
  | none => false

/-- The expected frame of an axis has been accepted (R117). -/
def Cycle.got (ax : Axis) (cy : Cycle) : Cycle :=
  match ax with
  | .X => { cy with gotX := true }
  | .Y => { cy with gotY := true }

/-- An accepted BORDER: merged, counted when expected, and ending the border wait when it is the last expected one (R63, R117, R118). -/
def takeBorder (origin : Nat) (b : Border) (s : State) : Reaction :=
  match (s.chan b.ch).record, (s.chan b.ch).current with
  | some r, some cy =>
      let s := modRecord b.ch (mergeBorder s.straps origin b) s
      if expectedBorder origin b r cy then
        let s := modCycle b.ch (Cycle.got b.axis) s
        if cy.phase = .borderWait ∧ allExpected r (cy.got b.axis) then endBorderWait b.ch s else (s, none)
      else (s, none)
  | _, _ => (s, none)

/-- A received BORDER: accepted or discarded (R117). -/
def onBorder (origin : Nat) (b : Border) (s : State) : Reaction :=
  if acceptsBorder s b then takeBorder origin b s else (s, none)

end Sys2Proof.Machine
end

