-- ==== Sys2Proof/Machine/Delivery.lean ====
section
/-! DEFINITION. The end of a sequence: the result delivered, the engine IDLE, the next grant, then the request the receiver makes (R26, R33, R35). -/

namespace Sys2Proof.Machine

/-- The tile becomes ACTIVE after the double sweep: every enabled channel enters SEEK, the dormant timer starts, the first pass begins (R50, R95, R109). -/
def becomeActive (s : State) : Reaction :=
  let s := { s with mode := .active }
  let s := setState .A .seek s
  let s := if s.settings.enableB then setState .B .seek s else s
  beginPass (timeDormant s)

/-- A baseline listen of the double sweep is delivered (R50). -/
def sweepResult (slot : Nat) (s : State) : Reaction :=
  let s := writeSweep slot s
  let (b, complete) := stepSweep s.baseline
  let s := { s with baseline := b }
  if complete then becomeActive (endSweep s) else (s, none)

/-- A baseline listen is delivered (R47, R49, R50). -/
def baselineResult (slot : Nat) (seq : Sequence) (s : State) : Reaction :=
  if seq.disturbed then (s, none)
  else if s.baseline.sweeping then sweepResult slot s
  else (completeRefresh slot s, none)

/-- A result that is not abandoned is delivered to the block that asked for it (R26). -/
def deliver (seq : Sequence) (s : State) : Reaction :=
  match seq.job with
  | .tip c => tipResult c seq s
  | .collar c => collarResult c seq s
  | .seekX c => seekResult c seq s
  | .seekY c => seekResult c seq s
  | .capture c k => (captureResult c k seq s, none)
  | .baseline slot => baselineResult slot seq s

/-- An abandoned result is discarded; the end of a tracking sequence ends its abandoned cycle (R26, R120). -/
def discard (seq : Sequence) (s : State) : State :=
  match seq.job with
  | .tip c => abandonedEnds c s
  | .collar c => abandonedEnds c s
  | _ => s

/-- What the end of a sequence leaves before the engine is IDLE. -/
def conclude (seq : Sequence) (s : State) : Reaction :=
  if seq.abandoned then (discard seq s, none) else deliver seq s

/-- A sequence ends: result delivered, engine IDLE, a fall taken first, the grant, and then the answer's request (R26, R33, R35). -/
def endSequence (seq : Sequence) (fall : Option Freq) (s : State) : State :=
  let (s, r) := conclude seq s
  submit r (grant (fallFirst fall (goIdle s)))

/-- The sequence goes into DAMP and its index is masked again (R16, R27). -/
def enterDamp (seq : Sequence) (s : State) : State :=
  enterPhase .damp seq (setDetector seq.job.freq .masked s)

/-- LISTEN is over, in full or cut short: a driven sequence enters DAMP, another ends (R16 to R18, R28). -/
def listenOver (seq : Sequence) (fall : Option Freq) (s : State) : State :=
  if seq.job.driven then enterDamp seq s else endSequence seq fall s

/--
A reported rise disturbs a sequence of its frequency in SETTLE or LISTEN: the sums keep the completed periods, the
clipped marks what those and the period cut short have set (R25, R28).

DESIGN CHOICE (log 22): R28 ends at once a baseline listen that was granted while its index was PRESENT too, when a
fall and a new rise at that index come during it, though R46 has such a listen run its L periods.
-/
def riseReported (f : Nat) (sampled : Sampled) (fall : Option Freq) (s : State) : State :=
  match s.engine.running with
  | some r =>
      if r.seq.job.freq = f then
        match r.phase with
        | .settle => listenOver { r.seq with disturbed := true } fall s
        | .listen => listenOver { r.seq with disturbed := true } fall (sampleUntilCut sampled s)
        | .drive => s
        | .damp => s
      else s
  | none => s

end Sys2Proof.Machine
end

