-- ==== Sys2Proof/Machine/Receive.lean ====
section
/-! DEFINITION. Received frames: the link's checks, copying and forwarding, what the tracker does with each kind, the soft restart (R102 to R108, R114, R128 to R148, R154, R156, R167). -/

namespace Sys2Proof.Machine

/-! ### Frames of another holder (R102, R106, R108, R132, R134, R136) -/

/-- A channel in HOLD or YIELD meets another holder: the lower index keeps the channel (R136). -/
def duel (c : Chan) (origin : Nat) (s : State) : State :=
  if ownIndex s.straps < origin then s else standBy c origin s

/-- A NOTICE, REPORT or TAKE of another holder: duel in HOLD and YIELD, otherwise STANDBY with the view set or refreshed; nothing for a channel without state. -/
def holderHeard (c : Chan) (origin : Nat) (s : State) : State :=
  match (s.chan c).state with
  | .absent => s
  | .hold => duel c origin s
  | .yield _ => duel c origin s
  | .seek => standBy c origin s
  | .defer _ => standBy c origin s
  | .claim _ => standBy c origin s
  | .standby _ _ => standBy c origin s

/-- A received SIGHTING (R102, R104, R108, R128). -/
def onSighting (c : Chan) (origin strength : Nat) (s : State) : State :=
  match (s.chan c).state with
  | .seek => deferTo c s
  | .claim cl => setState c (.claim (cl.hear (strength, origin))) s
  | _ => s

/-- A received NOTICE: its effect on the channel, then arming (R121, R134, R136). -/
def onNotice (c : Chan) (origin cycle : Nat) (wx wy : WantField) (s : State) : State :=
  considerArming c origin cycle wx wy (holderHeard c origin s)

/-- A received YIELD (R130). -/
def onYield (origin : Nat) (f : YieldFields) (s : State) : State :=
  if f.target = ownIndex s.straps then
    match (s.chan f.ch).state with
    | .seek => takePen origin f s
    | .defer _ => takePen origin f s
    | .claim _ => takePen origin f s
    | .standby _ _ => takePen origin f s
    | _ => s
  else s

/-- A received TAKE (R128, R132): one that names this tile ends its hold. -/
def onTake (c : Chan) (origin releaser : Nat) (s : State) : State :=
  if releaser = ownIndex s.straps ∧ s.holding c = true then standBy c origin s else holderHeard c origin s

/-- A received LOST (R138). -/
def onLost (c : Chan) (origin : Nat) (s : State) : Reaction :=
  match (s.chan c).state with
  | .defer _ => enterSeek c s
  | .standby holder _ => if holder = origin then enterSeek c s else (s, none)
  | _ => (s, none)

/-! ### Soft restart (R167) -/

/-- The engine's and the arbiter's part: sequence abandoned, queue emptied (R39). -/
def restartEngine (s : State) : State := { abandonRunning (fun _ => true) s with queue := [] }

/-- A channel's part: cycle abandoned, every record discarded, level 3, last strength 0 (R36, R72, R109, R120, R125, R139). -/
def restartChannel (c : Chan) (s : State) : State :=
  (dropRecords c (abandonCycle c s)).modChan c fun ch =>
    { ch with level := 3, lastStrength := 0, arming := none, state := .absent }

/-- The seek scheduler's part; the LFSR is kept (R109). -/
def restartSeek (s : State) : State :=
  { s with seek := { s.seek with pass := none, timer := none, backoff := none, turn := .A } }

/-- The part common to every mode: engine, channels, scheduler, own queue emptied uncounted (R39, R54, R154). -/
def restartCommon (s : State) : State :=
  let s := restartSeek (restartChannel .B (restartChannel .A (restartEngine s)))
  { s with link := { s.link with own := [] }, dormant := none }

/-- The soft restart (R167): in START the sweep is kept, otherwise the tile is ACTIVE with every channel in SEEK. -/
def softRestart (s : State) : Reaction :=
  if s.mode = .start then (restartCommon s, none)
  else
    let s := restartCommon s
    becomeActive { s with baseline := { s.baseline with owed := 0 } }

/-! ### Copies at the tracker (R93, R95, R14, R117) -/

/-- The channel a frame names, none for RESTART (R14). -/
def Frame.channel : Frame → Option Chan
  | .sighting ch _ _ _ => some ch
  | .notice ch _ _ _ _ => some ch
  | .border b => some b.ch
  | .report r => some r.ch
  | .yield f => some f.ch
  | .take ch _ _ => some ch
  | .lost ch _ => some ch
  | .restart => none

/-- What a pen frame does to its channel. -/
def penEffect (origin : Nat) (f : Frame) (s : State) : Reaction :=
  match f with
  | .sighting ch strength _ _ => (onSighting ch origin strength s, none)
  | .notice ch cycle _ wx wy => (onNotice ch origin cycle wx wy s, none)
  | .report r => (holderHeard r.ch origin s, none)
  | .yield y => (onYield origin y s, none)
  | .take ch releaser _ => (onTake ch origin releaser s, none)
  | .lost ch _ => onLost ch origin s
  | .border _ => (s, none)
  | .restart => (s, none)

/-- A pen frame: a DORMANT tile wakes, the frame has its effect, the dormant timer starts afresh or stops (R93, R94). -/
def penFrame (origin : Nat) (f : Frame) (s : State) : Reaction :=
  let (s, r) := penEffect origin f (wake s)
  (timeDormant s, r)

/-- The tracker is at work on pens: ACTIVE or DORMANT (R95, R130). -/
def State.tracking (s : State) : Bool := s.mode == .active || s.mode == .dormant

/-- A well-formed copy reaches the tracker (R14, R95, R117, R167). -/
def onCopy (origin : Nat) (f : Frame) (s : State) : Reaction :=
  match f, f.channel with
  | .restart, _ => softRestart s
  | .border b, _ => if s.tracking then onBorder origin b s else (s, none)
  | f, some c => if s.tracking && s.enabled c then penFrame origin f s else (s, none)
  | _, none => (s, none)

/-! ### Own frames that return (R105, R114, R144) -/

/-- A returning NOTICE reaches the barrier of the cycle that awaits it (R114). -/
def noticeReturns (c : Chan) (cycle : Nat) (s : State) : Reaction :=
  match (s.chan c).cycles with
  | some cs =>
      match cs.current with
      | some cy => if cy.phase = .noticeWait ∧ cs.number = some cycle then reachBarrier c false s else (s, none)
      | none => (s, none)
  | none => (s, none)

/-- A returning SIGHTING decides a pending claim (R105). -/
def sightingReturns (c : Chan) (s : State) : State :=
  match (s.chan c).state with
  | .claim cl => decideClaim c cl s
  | _ => s

/-- The return of an own frame reported to the tracker by its kind, with its octets read at the fields' places and not judged (R144, R156, log 9). -/
def onReturn (k : Kind) (o : List Byte) (s : State) : Reaction :=
  match k, readChan (octetAt o 3) with
  | .notice, some c => noticeReturns c (word2 o 4) s
  | .sighting, some c => (sightingReturns c s, none)
  | _, _ => (s, none)

/-- Octets of the tile's own origin leave the ring; their return is reported when octet 0 is one of the eight kinds (R144, R155). -/
def ownReturns (o : List Byte) (s : State) : State :=
  match kindOf (o.getD 0 0) with
  | none => s
  | some k => settleReaction (onReturn k o s)

/-! ### The link's checks (R143 to R148) -/

/-- The copy of a frame just placed in the insertion buffer: handed over when its kind and length are known and the tile is not OUTSIDE, acted on when well formed (R146, R156). -/
def handCopy (o : List Byte) (s : State) : State :=
  if s.mode = .outside then s
  else
    match frameKind o with
    | none => s
    | some k =>
        match readCopy k o with
        | some f => settleReaction (onCopy (originOf o) f s)
        | none => s

/-- A wholly received frame is checked, removed, dropped, or buffered and copied (R143 to R148). -/
def receiveFrame (o : List Byte) (s : State) : State :=
  if !crcGood o then s
  else if originOf o = ownIndex s.straps then ownReturns o s
  else if 31 ≤ hopOf o then s
  else if 2 ≤ s.link.buffer.length then s
  else handCopy o { s with link := { s.link with buffer := s.link.buffer ++ [o] } }

/-! ### Symbols on link-in (R141, R142) -/

/-- A valid symbol restarts the link silence timer (R141). -/
def heardSymbol (s : State) : State :=
  { s with link := { s.link with silence := some (s.now + usec 10) } }

/-- A symbol while link-in is DOWN is counted; the 64th valid one in a row brings it UP (R141). -/
def symbolDown (sym : Symbol) (s : State) : State :=
  if sym = .invalid then { s with link := { s.link with count := 0 } }
  else if s.link.count + 1 < 64 then { s with link := { s.link with count := s.link.count + 1 } }
  else { s with link := { s.link with count := 64, up := true, reception := none } }

/-- The frame in reception set. -/
def setReception (r : Option (List Byte)) (s : State) : State := { s with link := { s.link with reception := r } }

/-- A symbol while link-in is UP (R142). -/
def symbolUp (sym : Symbol) (s : State) : State :=
  match sym, s.link.reception with
  | .start, _ => setReception (some []) s
  | .data b, some o => if o.length < 24 then setReception (some (o ++ [b])) s else setReception none s
  | .stop, some o => if 5 ≤ o.length then receiveFrame o (setReception none s) else setReception none s
  | .idle, some _ => setReception none s
  | .invalid, some _ => setReception none s
  | _, none => s

/-- One symbol on link-in. -/
def receiveSymbol (s : State) (sym : Symbol) : State :=
  let s := if sym = .invalid then s else heardSymbol s
  if s.link.up then symbolUp sym s else symbolDown sym s

/-- Symbols on link-in, one after the other. -/
def receiveSymbols (l : List Symbol) (s : State) : State := l.foldl receiveSymbol s

/-- A frame's symbols on link-in, from its start symbol to its end symbol (R140, R142). -/
def receiveOctets (o : List Byte) (s : State) : State := receiveSymbols (frameSymbols o) s

end Sys2Proof.Machine
end

