-- ==== Sys2Proof/Machine/Loader.lean ====
section
/-! DEFINITION. The start-up loader: image check, clamping, settings (R161 to R164), and the pins it drives the EEPROM with (R162). -/

namespace Sys2Proof.Machine

/-- The octets the loader sends the EEPROM before it reads: read instruction 3 and address 0 (R162). -/
def readCommand : List Byte := [3, 0, 0]

/-- How long the read takes: 131 octets of 8 µs (R162). -/
def readTime : Nat := usec ((readCommand.length + 128) * 8)

/-- The bits of an octet, most significant first (R162). -/
def octetBits (b : Byte) : List Bool := (List.range 8).map fun k => b.getLsbD (7 - k)

/-- The bits the loader sends the EEPROM, one a microsecond (R162). -/
def sentBits : List Bool := readCommand.flatMap octetBits

/-- The clock pin at a time into the transfer: low in the first half of each bit, high in the second (R162, log 23). -/
def readClock (t : Nat) : Bool := usec 1 ≤ 2 * (t % usec 1)

/-- The data pin at a time into the transfer, at a moment of the clock: the bit being sent, from the start of its clock's low half to the end of its high half; a free value once the instruction and the address are out (R162, log 23). -/
def readData (t moment : Nat) : Bool :=
  match sentBits[t / usec 1]? with
  | some b => b
  | none => Config.idleData moment

/-- The EEPROM's pins, for as long as no command changes the state, at a moment from the clock on: in a transfer select low, clock and data running; otherwise select high, clock low, data a free value (R162, log 23). -/
def State.eepromPins (s : State) (moment : Nat) : EepromPins :=
  match s.loader.readEnds with
  | some ends =>
      if moment < ends then
        { select := false, clock := readClock (readTime - (ends - moment))
          data := readData (readTime - (ends - moment)) moment }
      else { select := true, clock := false, data := Config.idleData moment }
  | none => { select := true, clock := false, data := Config.idleData moment }

/-- The 128 octets clocked in; an octet that nothing drives reads 255, as the input has a pull-up (R162, log 16). -/
def clockedIn (o : List Byte) : List Byte := (List.range 128).map fun k => o.getD k 255

/-- The image is taken as read: format mark 84 and a good CRC over octets 0 to 125 (R163). -/
def imageGood (o : List Byte) : Bool := octetAt o 0 == 84 && crcGood o

/-- The listen length nearest a stored number, the longer when halfway (R164). -/
def listenOf (n : Nat) : Nat := if n ≤ 11 then 8 else if n ≤ 23 then 16 else 32

/-- Trim octets of the image (R161). -/
def imageTrims (o : List Byte) : List Nat := (List.range 80).map fun k => octetAt o (29 + k)

/-- A loop joins the dead-loop list: 80 or more is ignored, a duplicate is held once (R52, R164). -/
def addDead (l : List Nat) (n : Nat) : List Nat := if 80 ≤ n ∨ l.contains n = true then l else l ++ [n]

/-- The dead-loop list of the image (R161, R164). -/
def imageDead (o : List Byte) : List Nat := ((List.range 8).map fun k => octetAt o (109 + k)).foldl addDead []

/-- The contact-up threshold below contact down (R164). -/
def contactUpOf (down stored : Nat) : Nat := if stored < down then stored else down - 1

/-- The settings of an image that passed its check (R164). -/
def settingsOf (o : List Byte) : Settings where
  columns := clampNat 1 6 (octetAt o 1)
  rows := clampNat 1 4 (octetAt o 2)
  enableB := octetAt o 3 != 0
  listenLength := listenOf (octetAt o 4)
  intervalCode := clampNat 4 40 (octetAt o 5)
  historyLength := clampNat 1 8 (octetAt o 6)
  findThreshold := 8 * word2 o 7
  lossThreshold := 8 * word2 o 9
  tiltThreshold := 8 * word2 o 11
  agcTarget := 8 * word2 o 13
  separation := clampNat 400 1600 (word2 o 15)
  offsetA := clampInt (-2048) 2047 (signed16 (word2 o 17))
  gainA := clampNat 16 1023 (word2 o 19)
  offsetB := clampInt (-2048) 2047 (signed16 (word2 o 21))
  gainB := clampNat 16 1023 (word2 o 23)
  contactDown := clampNat 1 4095 (word2 o 25)
  contactUp := contactUpOf (clampNat 1 4095 (word2 o 25)) (word2 o 27)
  trims := imageTrims o
  dead := imageDead o

/-- The settings of the default image (R161, R163). -/
def imageDefaults : Settings := Config.defaultSettings

/-- The image checked and its settings taken; a bad image is discarded whole for the default image (R163, R164). -/
def loadImage (o : List Byte) (s : State) : State :=
  if imageGood o then
    { s with loader := { readEnds := none, octets := o, imageDefault := false }, settings := settingsOf o }
  else
    { s with loader := { readEnds := none, octets := [], imageDefault := true }, settings := imageDefaults }

/-- The straps compared with the extent: OUTSIDE, or the double sweep begins and its first listen is granted (R5, R50, R165, R166). -/
def compareExtent (s : State) : State :=
  if beyondExtent s.straps s.settings then { s with mode := .outside } else grant (beginSweep s)

end Sys2Proof.Machine
end

