-- ==== Sys2Proof/Machine/ResetEvents.lean ====
section
/-! DEFINITION. The meanings of POWER_ON_RESET, PIN_RESET, RESET_END and IMAGE_LOADED (R38, R53, R72, R109, R153, R162 to R168). -/

namespace Sys2Proof.Machine

/-- Every block in its reset state, held until a moment; the clock, the waiting commands and the sampled straps stay (R168, log 5). -/
def enterReset (ends : Nat) (s : State) : State :=
  { State.reset with
    now := s.now
    pending := s.pending
    resetUntil := ends
    straps := s.straps
    seek := { State.reset.seek with lfsr := s.seek.lfsr } }

/-- The moment until which a reset already in progress lasts. -/
def heldUntil (s : State) : Nat := if s.inReset then s.resetUntil else s.now

/-- A command other than a reset does nothing while the part is held in reset (R168). -/
def unlessReset (f : State → State) (s : State) : State := if s.inReset then s else f s

/-- POWER_ON_RESET (R168): the part is held in reset for 2 ms. -/
def execPowerOnReset (dt : Nat) (s : State) : Host.Outcome State Fault Refusal :=
  let s := elapse dt s
  .next (enterReset (s.now + msec 2) s)

/-- PIN_RESET (R168): a low pulse of at least 1 µs; a power-on hold still in progress runs on. -/
def execPinReset (dt : Nat) (s : State) : Host.Outcome State Fault Refusal :=
  let s := elapse dt s
  .next (enterReset (max (heldUntil s) (s.now + usec 1)) s)

/-- The reset ends: straps sampled, LFSR seeded, link-out sends idle symbols, the image read begins (R3, R101, R153, R162, R165). -/
def leaveReset (straps : Straps) (s : State) : State :=
  { s with
    inReset := false
    straps := straps
    mode := .start
    seek := { s.seek with lfsr := lfsrSeed straps }
    loader := { s.loader with readEnds := some (s.now + readTime), imageDefault := false }
    link := { s.link with sending := true, disparity := false, freeAt := s.now } }

/-- RESET_END (R165), no sooner than the hold allows. -/
def execResetEnd (dt : Nat) (straps : Straps) (s : State) : Host.Outcome State Fault Refusal :=
  let s := elapse dt s
  .next (if s.inReset then leaveReset straps (reach s.resetUntil s) else s)

/-- The read completes: image checked, settings handed over, straps compared (R5, R162, R165). -/
def imageLoads (o : List Byte) (s : State) : State :=
  match s.loader.readEnds with
  | none => s
  | some t => compareExtent (loadImage (clockedIn o) (reach t s))

/-- IMAGE_LOADED (R162). -/
def execImageLoaded (octets : List Byte) (s : State) : Host.Outcome State Fault Refusal :=
  .next (unlessReset (imageLoads octets) s)

end Sys2Proof.Machine
end

