-- ==== Sys2Proof/Machine/EngineEvents.lean ====
section
/-! DEFINITION. The meanings of the engine's phase ends and of the field detector's reports (R16 to R18, R22, R27 to R31). -/

namespace Sys2Proof.Machine

/-- The end of a phase of the sequence in progress, taken at its moment; nothing when the engine is in another state (log 3). -/
def phaseEnds (ph : Phase) (f : Sequence → State → State) (s : State) : State :=
  match s.engine.running with
  | some r => if r.phase = ph then f r.seq (reach r.ends s) else s
  | none => s

/-- The drive stops and the mask lifts: SETTLE, and a rise reported now disturbs it at once (R16, R27, R28). -/
def driveOver (foreign : Bool) (seq : Sequence) (s : State) : State :=
  let s := enterPhase .settle seq (unmask seq.job.freq foreign s)
  if foreign then riseReported seq.job.freq ⟨[], []⟩ none s else s

/-- DRIVE_END (R16). -/
def execDriveEnd (foreign : Bool) (s : State) : Host.Outcome State Fault Refusal :=
  .next (unlessReset (phaseEnds .drive (driveOver foreign)) s)

/-- SETTLE_END (R16). -/
def execSettleEnd (s : State) : Host.Outcome State Fault Refusal :=
  .next (unlessReset (phaseEnds .settle (enterPhase .listen)) s)

/-- LISTEN has run for its L periods (R16, R24). -/
def listenEnds (periods : List Period) (fall : Option Freq) (seq : Sequence) (s : State) : State :=
  listenOver seq fall (sampleFor periods s)

/-- LISTEN_END (R16). -/
def execListenEnd (periods : List Period) (fall : Option Freq) (s : State) : Host.Outcome State Fault Refusal :=
  .next (unlessReset (phaseEnds .listen (listenEnds periods fall)) s)

/-- DAMP is over: the mask lifts, the result is delivered, the engine enters IDLE (R22, R26, R27). -/
def dampOver (foreign : Bool) (fall : Option Freq) (seq : Sequence) (s : State) : State :=
  endSequence seq fall (unmask seq.job.freq foreign s)

/-- DAMP_END (R22). -/
def execDampEnd (foreign : Bool) (fall : Option Freq) (s : State) : Host.Outcome State Fault Refusal :=
  .next (unlessReset (phaseEnds .damp (dampOver foreign fall)) s)

/-- Foreign excitation rises: reported when the index is QUIET (R27). -/
def fieldRises (f : Nat) (sampled : Sampled) (fall : Option Freq) (s : State) : State :=
  if detectorAt f s = .quiet then riseReported f sampled fall (setDetector f .present s) else s

/-- FIELD_RISE (R27). -/
def execFieldRise (dt : Nat) (freq : Freq) (sampled : Sampled) (fall : Option Freq) (s : State) :
    Host.Outcome State Fault Refusal :=
  .next (unlessReset (fieldRises freq.val sampled fall) (elapse dt s))

/-- FIELD_FALL (R27). -/
def execFieldFall (dt : Nat) (freq : Freq) (s : State) : Host.Outcome State Fault Refusal :=
  .next (unlessReset (fieldFalls freq.val) (elapse dt s))

end Sys2Proof.Machine
end

