-- ==== Sys2Proof/Machine/LinkEvents.lean ====
section
/-! DEFINITION. The meanings of the link's events: link-in, received frames, returns, sends (R141 to R149, R155). -/

namespace Sys2Proof.Machine

/-! ### Link-in -/

/-- The link silence timer expires: link-in is DOWN and a frame in reception is discarded; the count of valid symbols begins anew when it was UP (R141, log 7). -/
def linkFalls (s : State) : State :=
  match s.link.silence with
  | none => s
  | some t =>
      let s := reach t s
      { s with link := { s.link with
          silence := none, up := false, reception := none, count := if s.link.up then 0 else s.link.count } }

/-- LINK_IN_DOWN (R141). -/
def execLinkInDown (dt : Nat) (s : State) : Host.Outcome State Fault Refusal :=
  .next (unlessReset linkFalls (elapse dt s))

/-- LINK_IN_UP (R141): the code groups received are counted, the 64th valid one in a row brings link-in UP. -/
def execLinkInUp (dt : Nat) (groups : List Pattern) (s : State) : Host.Outcome State Fault Refusal :=
  .next (unlessReset (receiveSymbols (groups.map classify)) (elapse dt s))

/-- FRAME_RECEPTION_DISCARD (R142): the code groups received, among them what discards the frame. -/
def execFrameReceptionDiscard (dt : Nat) (groups : List Pattern) (s : State) : Host.Outcome State Fault Refusal :=
  .next (unlessReset (receiveSymbols (groups.map classify)) (elapse dt s))

/-! ### Received frames -/

/-- A frame of a kind arrives, its content after the kind given. -/
def kindArrives (k : Kind) (dt : Nat) (body : List Byte) (s : State) : State :=
  unlessReset (receiveOctets (kindByte k :: body)) (elapse dt s)

/-- SIGHTING (R104). -/
def execSighting (dt : Nat) (body : List Byte) (s : State) : Host.Outcome State Fault Refusal :=
  .next (kindArrives .sighting dt body s)

/-- NOTICE (R121). -/
def execNotice (dt : Nat) (body : List Byte) (s : State) : Host.Outcome State Fault Refusal :=
  .next (kindArrives .notice dt body s)

/-- BORDER (R117). -/
def execBorder (dt : Nat) (body : List Byte) (s : State) : Host.Outcome State Fault Refusal :=
  .next (kindArrives .border dt body s)

/-- REPORT (R134). -/
def execReport (dt : Nat) (body : List Byte) (s : State) : Host.Outcome State Fault Refusal :=
  .next (kindArrives .report dt body s)

/-- YIELD (R130). -/
def execYield (dt : Nat) (body : List Byte) (s : State) : Host.Outcome State Fault Refusal :=
  .next (kindArrives .yield dt body s)

/-- TAKE (R132). -/
def execTake (dt : Nat) (body : List Byte) (s : State) : Host.Outcome State Fault Refusal :=
  .next (kindArrives .take dt body s)

/-- LOST (R138). -/
def execLost (dt : Nat) (body : List Byte) (s : State) : Host.Outcome State Fault Refusal :=
  .next (kindArrives .lost dt body s)

/-- RESTART (R167). -/
def execRestart (dt : Nat) (body : List Byte) (s : State) : Host.Outcome State Fault Refusal :=
  .next (kindArrives .restart dt body s)

/-- UNKNOWN_KIND_FRAME (R155). -/
def execUnknownKindFrame (dt : Nat) (octets : List Byte) (s : State) : Host.Outcome State Fault Refusal :=
  .next (unlessReset (receiveOctets octets) (elapse dt s))

/-! ### Own frames that come back -/

/-- A frame of the tile's own origin arrives, its content after the origin given. -/
def ownArrives (kind : Byte) (dt : Nat) (rest : List Byte) (s : State) : State :=
  unlessReset (receiveOctets (kind :: byteOf (ownIndex s.straps) :: rest)) (elapse dt s)

/-- NOTICE_RETURN (R114). -/
def execNoticeReturn (dt : Nat) (rest : List Byte) (s : State) : Host.Outcome State Fault Refusal :=
  .next (ownArrives (kindByte .notice) dt rest s)

/-- SIGHTING_RETURN (R105). -/
def execSightingReturn (dt : Nat) (rest : List Byte) (s : State) : Host.Outcome State Fault Refusal :=
  .next (ownArrives (kindByte .sighting) dt rest s)

/-- OWN_FRAME_REMOVED (R144). -/
def execOwnFrameRemoved (dt : Nat) (kind : Byte) (rest : List Byte) (s : State) : Host.Outcome State Fault Refusal :=
  .next (ownArrives kind dt rest s)

/-! ### Link-out -/

/-- FORWARD_FRAME_SEND (R147). -/
def execForwardFrameSend (dt : Nat) (s : State) : Host.Outcome State Fault Refusal :=
  .next (unlessReset sendForward (elapse dt s))

/-- OWN_FRAME_SEND (R149). -/
def execOwnFrameSend (dt : Nat) (s : State) : Host.Outcome State Fault Refusal :=
  .next (unlessReset sendOwn (elapse dt s))

end Sys2Proof.Machine
end

