-- ==== Sys2Proof/Machine/TimerEvents.lean ====
section
/-! DEFINITION. The meanings of the timers' expiries (R45, R94, R96, R100, R105, R108, R111, R114, R118, R124, R129, R135). -/

namespace Sys2Proof.Machine

/-- A timer expires at its moment; nothing when it is stopped (log 3). -/
def expires (timer : Option Nat) (f : Nat → State → State) (s : State) : State :=
  match timer with
  | some t => f t (reach t s)
  | none => s

/-! ### Timers of the tile -/

/-- The pending count rises by 1 if below 8; the timer goes on; a refresh that now stands is granted to an idle engine (R33, R45). -/
def refreshDue (t : Nat) (s : State) : State :=
  grant { s with baseline := { s.baseline with
    timer := some (t + msec 8), owed := if s.baseline.owed < 8 then s.baseline.owed + 1 else s.baseline.owed } }

/-- REFRESH_TIMER_EXPIRY (R45). -/
def execRefreshTimerExpiry (s : State) : Host.Outcome State Fault Refusal :=
  .next (unlessReset (fun s => expires s.baseline.timer refreshDue s) s)

/-- The tile enters DORMANT: timer stopped, an odd counter advanced to an even slot (R48, R94). -/
def goDormant (_t : Nat) (s : State) : State :=
  { s with
    mode := .dormant
    dormant := none
    baseline := { s.baseline with counter := evenSlot s.baseline.counter } }

/-- DORMANT_TIMER_EXPIRY (R94). -/
def execDormantTimerExpiry (s : State) : Host.Outcome State Fault Refusal :=
  .next (unlessReset (fun s => expires s.dormant goDormant s) s)

/-- The seek timer has expired: it is stopped and a pass begins if a channel is in SEEK (R96). -/
def seekDue (_t : Nat) (s : State) : State := settleReaction (beginPass { s with seek := { s.seek with timer := none } })

/-- SEEK_TIMER_EXPIRY (R96). -/
def execSeekTimerExpiry (s : State) : Host.Outcome State Fault Refusal :=
  .next (unlessReset (fun s => expires s.seek.timer seekDue s) s)

/-- The backoff timer has expired: it is stopped and the next pass begins (R96, R100). -/
def backoffDue (_t : Nat) (s : State) : State := settleReaction (beginPass { s with seek := { s.seek with backoff := none } })

/-- BACKOFF_TIMER_EXPIRY (R100). -/
def execBackoffTimerExpiry (s : State) : Host.Outcome State Fault Refusal :=
  .next (unlessReset (fun s => expires s.seek.backoff backoffDue s) s)

/-! ### Timers of a channel -/

/-- The claim timer of a channel in CLAIM decides (R105). -/
def claimDue (c : Chan) (s : State) : State :=
  match (s.chan c).state with
  | .claim cl => decideClaim c cl (reach cl.timer s)
  | _ => s

/-- CLAIM_TIMER_EXPIRY (R105). -/
def execClaimTimerExpiry (ch : Chan) (s : State) : Host.Outcome State Fault Refusal :=
  .next (unlessReset (claimDue ch) s)

/-- The defer timer of a channel in DEFER returns it to SEEK (R108). -/
def deferDue (c : Chan) (s : State) : State :=
  match (s.chan c).state with
  | .defer t => settleReaction (enterSeek c (reach t s))
  | _ => s

/-- DEFER_TIMER_EXPIRY (R108). -/
def execDeferTimerExpiry (ch : Chan) (s : State) : Host.Outcome State Fault Refusal :=
  .next (unlessReset (deferDue ch) s)

/-- A cycle of the channel is in progress, an abandoned one included (R110). -/
def cycleInProgress (s : State) (c : Chan) : Bool := (s.chan c).current.isSome || (s.chan c).abandoned.isSome

/-- The report timer expires: a new cycle in HOLD with none in progress, an overrun with one, nothing in YIELD (R111). -/
def reportDue (c : Chan) (s : State) : State :=
  match (s.chan c).cycles with
  | none => s
  | some cs =>
      let s := reach cs.timer s
      let cs := { cs with timer := cs.timer + reportInterval s.settings }
      let s := s.modChan c fun ch => { ch with cycles := some cs }
      if s.inHold c then
        if cycleInProgress s c then
          s.modChan c fun ch => { ch with cycles := some { cs with overrun := min 255 (cs.overrun + 1) } }
        else startCycle c s
      else s

/-- REPORT_TIMER_EXPIRY (R111). -/
def execReportTimerExpiry (ch : Chan) (s : State) : Host.Outcome State Fault Refusal :=
  .next (unlessReset (reportDue ch) s)

/-- The barrier timer expires in NOTICE WAIT (R114). -/
def barrierDue (c : Chan) (s : State) : State :=
  match (s.chan c).current with
  | some cy => expires cy.barrier (fun _ s => settleReaction (reachBarrier c true s)) s
  | none => s

/-- BARRIER_TIMER_EXPIRY (R114). -/
def execBarrierTimerExpiry (ch : Chan) (s : State) : Host.Outcome State Fault Refusal :=
  .next (unlessReset (barrierDue ch) s)

/-- The border timer expires and the border wait ends (R118). -/
def borderDue (c : Chan) (s : State) : State :=
  match (s.chan c).current with
  | some cy => expires cy.border (fun _ s => settleReaction (endBorderWait c s)) s
  | none => s

/-- BORDER_TIMER_EXPIRY (R118). -/
def execBorderTimerExpiry (ch : Chan) (s : State) : Host.Outcome State Fault Refusal :=
  .next (unlessReset (borderDue ch) s)

/-- The yield timer expires: HOLD again, the next eight REPORTs untested (R126, R129). -/
def yieldDue (c : Chan) (s : State) : State :=
  match (s.chan c).state with
  | .yield t => setSpacing c 8 (setState c .hold (reach t s))
  | _ => s

/-- YIELD_TIMER_EXPIRY (R129). -/
def execYieldTimerExpiry (ch : Chan) (s : State) : Host.Outcome State Fault Refusal :=
  .next (unlessReset (yieldDue ch) s)

/-- The age timer of the channel's arming record expires (R124). -/
def ageDue (c : Chan) (s : State) : State :=
  match (s.chan c).arming with
  | some a => ageOut c a (reach a.timer s)
  | none => s

/-- AGE_TIMER_EXPIRY (R124). -/
def execAgeTimerExpiry (ch : Chan) (s : State) : Host.Outcome State Fault Refusal :=
  .next (unlessReset (ageDue ch) s)

/-- The view timer expires: the view is discarded and the channel enters SEEK (R135). -/
def viewDue (c : Chan) (s : State) : State :=
  match (s.chan c).state with
  | .standby _ t => settleReaction (enterSeek c (reach t s))
  | _ => s

/-- VIEW_TIMER_EXPIRY (R135). -/
def execViewTimerExpiry (ch : Chan) (s : State) : Host.Outcome State Fault Refusal :=
  .next (unlessReset (viewDue ch) s)

end Sys2Proof.Machine
end

