-- ==== Sys2Proof/Machine/Dispatch.lean ====
section
/-! DEFINITION. One arm per command: a direct call of its meaning. -/

namespace Sys2Proof.Machine

def exec (i : Instr) (s : State) : Host.Outcome State Fault Refusal :=
  match i with
  | .powerOnReset dt => Sys2Proof.Machine.execPowerOnReset dt s
  | .pinReset dt => Sys2Proof.Machine.execPinReset dt s
  | .resetEnd dt straps => Sys2Proof.Machine.execResetEnd dt straps s
  | .imageLoaded octets => Sys2Proof.Machine.execImageLoaded octets s
  | .driveEnd foreign => Sys2Proof.Machine.execDriveEnd foreign s
  | .settleEnd => Sys2Proof.Machine.execSettleEnd s
  | .listenEnd periods fall => Sys2Proof.Machine.execListenEnd periods fall s
  | .dampEnd foreign fall => Sys2Proof.Machine.execDampEnd foreign fall s
  | .fieldRise dt freq sampled fall => Sys2Proof.Machine.execFieldRise dt freq sampled fall s
  | .fieldFall dt freq => Sys2Proof.Machine.execFieldFall dt freq s
  | .refreshTimerExpiry => Sys2Proof.Machine.execRefreshTimerExpiry s
  | .dormantTimerExpiry => Sys2Proof.Machine.execDormantTimerExpiry s
  | .seekTimerExpiry => Sys2Proof.Machine.execSeekTimerExpiry s
  | .backoffTimerExpiry => Sys2Proof.Machine.execBackoffTimerExpiry s
  | .claimTimerExpiry ch => Sys2Proof.Machine.execClaimTimerExpiry ch s
  | .deferTimerExpiry ch => Sys2Proof.Machine.execDeferTimerExpiry ch s
  | .reportTimerExpiry ch => Sys2Proof.Machine.execReportTimerExpiry ch s
  | .barrierTimerExpiry ch => Sys2Proof.Machine.execBarrierTimerExpiry ch s
  | .borderTimerExpiry ch => Sys2Proof.Machine.execBorderTimerExpiry ch s
  | .yieldTimerExpiry ch => Sys2Proof.Machine.execYieldTimerExpiry ch s
  | .ageTimerExpiry ch => Sys2Proof.Machine.execAgeTimerExpiry ch s
  | .viewTimerExpiry ch => Sys2Proof.Machine.execViewTimerExpiry ch s
  | .linkInDown dt => Sys2Proof.Machine.execLinkInDown dt s
  | .linkInUp dt groups => Sys2Proof.Machine.execLinkInUp dt groups s
  | .sighting dt body => Sys2Proof.Machine.execSighting dt body s
  | .notice dt body => Sys2Proof.Machine.execNotice dt body s
  | .border dt body => Sys2Proof.Machine.execBorder dt body s
  | .report dt body => Sys2Proof.Machine.execReport dt body s
  | .yield dt body => Sys2Proof.Machine.execYield dt body s
  | .take dt body => Sys2Proof.Machine.execTake dt body s
  | .lost dt body => Sys2Proof.Machine.execLost dt body s
  | .restart dt body => Sys2Proof.Machine.execRestart dt body s
  | .noticeReturn dt rest => Sys2Proof.Machine.execNoticeReturn dt rest s
  | .sightingReturn dt rest => Sys2Proof.Machine.execSightingReturn dt rest s
  | .ownFrameRemoved dt kind rest => Sys2Proof.Machine.execOwnFrameRemoved dt kind rest s
  | .unknownKindFrame dt octets => Sys2Proof.Machine.execUnknownKindFrame dt octets s
  | .forwardFrameSend dt => Sys2Proof.Machine.execForwardFrameSend dt s
  | .ownFrameSend dt => Sys2Proof.Machine.execOwnFrameSend dt s
  | .frameReceptionDiscard dt groups => Sys2Proof.Machine.execFrameReceptionDiscard dt groups s

end Sys2Proof.Machine
end

