-- ==== Sys2Proof/Safety.lean ====
section
/-! DEFINITION. The laws of the device that the spec states, as predicates of a state, and the terms in which the statements speak. -/

namespace Sys2Proof.Machine

/-! ### What the arbiter is asked for (R32, R34) -/

/-- The three kinds of work a channel asks of the engine (R32). -/
inductive Work where
  | tip
  | collar
  | seek
  deriving DecidableEq, Repr

/-- The work a request asks for (R32). -/
def Ask.work : Ask → Work
  | .tip _ _ => .tip
  | .collar _ _ => .collar
  | .seekX _ => .seek
  | .seekY _ _ _ => .seek

/-- The channel and the work a driven sequence is run for; none for an undriven one (R16, R32). -/
def Job.work : Job → Option (Chan × Work)
  | .tip c => some (c, .tip)
  | .collar c => some (c, .collar)
  | .seekX c => some (c, .seek)
  | .seekY c => some (c, .seek)
  | .capture _ _ => none
  | .baseline _ => none

/-- Two requests of one requester: one channel's tip, one channel's collar, or one channel's seek in either stage (R32). -/
abbrev SameRequester (a b : Request) : Prop := a.ch = b.ch ∧ a.ask.work = b.ask.work

/-- At most one request of each requester waits (R32). -/
def QueueLawful (s : State) : Prop := s.queue.Pairwise fun a b => ¬ SameRequester a b

/-! ### Ranges (R32, R36, R41, R45, R80, R101, R110, R111, R142, R148, R150) -/

/-- The link's laws: insertion buffer at most 2, own queue at most 8, drop count at most 255 (R111, R148, R150). -/
def LinkBounded (s : State) : Prop :=
  s.link.buffer.length ≤ 2 ∧ s.link.own.length ≤ 8 ∧ s.link.drop ≤ 255

/-- The baseline unit's ranges: pending count 0 to 8, counter 0 to 23, pass 1 or 2, 320 records (R41, R45, R50). -/
def BaselineBounded (s : State) : Prop :=
  s.baseline.owed ≤ 8 ∧ s.baseline.counter < 24 ∧ (s.baseline.pass = 1 ∨ s.baseline.pass = 2)
    ∧ s.baseline.table.length = 320

/-- A channel's ranges: drive level 0 to 3, overrun count 0 to 255, yield spacing count 0 to 8, weak count 0 to 4 (R36, R80, R110, R111). -/
def ChannelBounded (ch : Channel) : Prop :=
  ch.level ≤ 3 ∧ (∀ cs, ch.cycles = some cs → cs.overrun ≤ 255 ∧ cs.spacing ≤ 8)
    ∧ (∀ p, ch.pen = some p → p.weakCount ≤ 4)

/-- The backoff LFSR holds a value within 1 to 65535 (R101). -/
def LfsrBounded (s : State) : Prop := 1 ≤ s.seek.lfsr ∧ s.seek.lfsr ≤ 65535

/-- Every count, level and FIFO is within its range, and the arbiter's queue holds at most one request of each requester (R32). -/
def RangesLawful (s : State) : Prop :=
  QueueLawful s ∧ LinkBounded s ∧ BaselineBounded s ∧ ChannelBounded s.chanA ∧ ChannelBounded s.chanB ∧ LfsrBounded s

/-! ### The ring (R142, R144, R145, R148, R153) -/

/-- A frame that may be forwarded: of 5 to 24 octets, not of the tile's own origin, received with a hop count below 31 (R142, R144, R145). -/
def Forwardable (st : Straps) (o : List Byte) : Prop :=
  5 ≤ o.length ∧ o.length ≤ 24 ∧ originOf o ≠ ownIndex st ∧ hopOf o < 31

/-- Every frame waiting to be forwarded may be; a frame in reception has at most 24 octets; in reset nothing waits. -/
def RingLawful (s : State) : Prop :=
  (∀ o ∈ s.link.buffer, Forwardable s.straps o) ∧ (∀ o, s.link.reception = some o → o.length ≤ 24)
    ∧ (s.inReset = true → s.link.buffer = [])

/-! ### Engine and readings (R24, R27, R40, R41) -/

/-- The frequency index of the sequence in progress is MASKED exactly in DRIVE and DAMP, and no other index is (R27); a border capture and a baseline listen are only ever in SETTLE or LISTEN, with no loop to drive or damp (R17, R18, R31). -/
def MaskLawful (s : State) : Prop :=
  s.detectors.length = 4
    ∧ (∀ f, f < 4 →
      (detectorAt f s = .masked ↔
        ∃ r, s.engine.running = some r ∧ r.seq.job.freq = f ∧ (r.phase = .drive ∨ r.phase = .damp)))
    ∧ ∀ r, s.engine.running = some r → r.seq.job.work = none → r.seq.loops = [] ∧ (r.phase = .settle ∨ r.phase = .listen)

/-- Sixteen receive paths, their sums within ±4095 × 32 and 0 until LISTEN has ended (R24); every baseline value within 0 to 180180 (R41). -/
def ReadingsLawful (s : State) : Prop :=
  s.settings.listenLength ≤ 32 ∧ s.engine.paths.length = 16
    ∧ (∀ p ∈ s.engine.paths, p.i.natAbs ≤ 131040 ∧ p.q.natAbs ≤ 131040)
    ∧ (∀ r, s.engine.running = some r → r.phase ≠ .damp → s.engine.paths = Engine.atReset.paths)
    ∧ ∀ fl ∈ s.baseline.table, fl.value ≤ 180180

/-! ### A tile that does no work of its own (R34, R38, R165, R166, R168) -/

/-- The part is held in reset, reads its image, or is OUTSIDE. -/
def State.apart (s : State) : Bool := s.inReset || s.loader.readEnds.isSome || s.mode == .outside

/-- A channel without state and without any record (R95). -/
def ChannelEmpty (ch : Channel) : Prop :=
  ch.state = .absent ∧ ch.record = none ∧ ch.pen = none ∧ ch.cycles = none ∧ ch.abandoned = none ∧ ch.arming = none

/-- In reset, while the image is read and in OUTSIDE: engine IDLE, no request, no own frame, no channel state or record, no timer of the tracker or the baseline unit, tracker not at work. -/
def QuietWhenApart (s : State) : Prop :=
  s.apart = true →
    s.engine.running = none ∧ s.queue = [] ∧ s.link.own = [] ∧ ChannelEmpty s.chanA ∧ ChannelEmpty s.chanB
      ∧ s.baseline.owed = 0 ∧ s.baseline.sweeping = false ∧ s.baseline.timer = none
      ∧ s.seek.pass = none ∧ s.seek.timer = none ∧ s.seek.backoff = none ∧ s.dormant = none
      ∧ s.tracking = false

/-- The image is read only in START (R162, R165). -/
def ReadInStart (s : State) : Prop := s.loader.readEnds.isSome = true → s.mode = .start

/-! ### The tracker (R73, R93 to R99, R110, R125) -/

/-- Pen record and cycle state exist exactly in HOLD and YIELD, where no arming record does; a cycle record, and a cycle in progress that is not abandoned, exist only in HOLD (R58, R73, R110, R125). -/
def RecordsLawful (ch : Channel) : Prop :=
  match ch.state with
  | .hold => ch.pen.isSome = true ∧ ch.cycles.isSome = true ∧ ch.arming = none
  | .yield _ =>
      ch.pen.isSome = true ∧ ch.cycles.isSome = true ∧ ch.arming = none ∧ ch.current = none ∧ ch.record = none
  | _ => ch.pen = none ∧ ch.cycles = none ∧ ch.record = none

/-- An abandoned cycle lives on only while a sequence of its channel, marked abandoned, runs, and no other cycle of the channel is in progress (R110, R112, R120). -/
def AbandonedLawful (c : Chan) (s : State) : Prop :=
  (s.chan c).abandoned.isSome = true →
    (s.chan c).current = none ∧
      ∃ r, s.engine.running = some r ∧ r.seq.job.tracks c = true ∧ r.seq.abandoned = true

/-- Channels have a state exactly when the tile is ACTIVE or DORMANT and the image enables them (R14, R95). -/
def StatesLawful (s : State) : Prop :=
  (s.chanA.state ≠ .absent ↔ s.tracking = true)
    ∧ (s.chanB.state ≠ .absent ↔ s.tracking = true ∧ s.settings.enableB = true)

/-- The dormant timer runs exactly in ACTIVE with every enabled channel in SEEK, and in DORMANT every enabled channel is in SEEK (R93, R94). -/
def DormantLawful (s : State) : Prop :=
  (s.dormant.isSome = true ↔ s.mode = .active ∧ s.allSeek = true) ∧ (s.mode = .dormant → s.allSeek = true)

/-- A pass in progress names an enabled channel in SEEK and excludes both seek timers, which never run together; none of the three exists before the tile tracks (R96, R99, R102, R109). -/
def SeekLawful (s : State) : Prop :=
  (∀ p, s.seek.pass = some p → s.seeks p.ch = true ∧ s.seek.timer = none ∧ s.seek.backoff = none)
    ∧ (s.seek.timer.isSome = true → s.seek.backoff = none)
    ∧ (s.tracking = false → s.seek.pass = none ∧ s.seek.timer = none ∧ s.seek.backoff = none)

/-- A cycle in progress has its number; the barrier timer belongs to NOTICE WAIT and the border timer to BORDER WAIT (R113, R114, R116, R118). -/
def CycleLawful (ch : Channel) : Prop :=
  ∀ cs cy, ch.cycles = some cs → cs.current = some cy →
    cs.number ≠ none ∧ (cy.barrier ≠ none → cy.phase = .noticeWait) ∧ (cy.border ≠ none → cy.phase = .borderWait)

/-- The channel is at the point that calls for this work: in HOLD with its cycle in the phase TIP or COLLAR, or in SEEK with the pass in progress its own (R34, R96, R115, R116). -/
def CallsFor (s : State) (c : Chan) (w : Work) : Prop :=
  match w with
  | .tip => (s.chan c).state = .hold ∧ ∃ cs cy, (s.chan c).cycles = some cs ∧ cs.current = some cy ∧ cy.phase = .tip
  | .collar =>
      (s.chan c).state = .hold ∧ ∃ cs cy, (s.chan c).cycles = some cs ∧ cs.current = some cy ∧ cy.phase = .collar
  | .seek => (s.chan c).state = .seek ∧ ∃ p, s.seek.pass = some p ∧ p.ch = c

/-- Every request that waits, and every driven sequence in progress that is not abandoned, is work its channel still calls for; so such a tip or collar sequence has its channel in HOLD, such a seek sequence in SEEK (R34). No channel both waits for a piece of work and has it in progress. -/
def WorkLawful (s : State) : Prop :=
  QueueLawful s ∧ (∀ q ∈ s.queue, CallsFor s q.ch q.ask.work)
    ∧ ∀ r c w, s.engine.running = some r → r.seq.job.work = some (c, w) → r.seq.abandoned = false →
      CallsFor s c w ∧ ∀ q ∈ s.queue, ¬ (q.ch = c ∧ q.ask.work = w)

/-- The laws of the tracker together; the image read and the double sweep belong to START (R50, R165). -/
def TrackerLawful (s : State) : Prop :=
  ReadInStart s ∧ QuietWhenApart s ∧ StatesLawful s ∧ DormantLawful s ∧ SeekLawful s
    ∧ RecordsLawful s.chanA ∧ RecordsLawful s.chanB ∧ AbandonedLawful .A s ∧ AbandonedLawful .B s
    ∧ CycleLawful s.chanA ∧ CycleLawful s.chanB ∧ WorkLawful s
    ∧ (s.baseline.sweeping = true → s.mode = .start)

/-! ### What REPORTs keep (R84, R86, R87, R89) -/

/-- The settings lie in the ranges of R161. -/
def SettingsLawful (set : Settings) : Prop :=
  1 ≤ set.columns ∧ set.columns ≤ 6 ∧ 1 ≤ set.rows ∧ set.rows ≤ 4
    ∧ (set.listenLength = 8 ∨ set.listenLength = 16 ∨ set.listenLength = 32)
    ∧ 4 ≤ set.intervalCode ∧ set.intervalCode ≤ 40 ∧ 1 ≤ set.historyLength ∧ set.historyLength ≤ 8
    ∧ 400 ≤ set.separation ∧ set.separation ≤ 1600
    ∧ -2048 ≤ set.offsetA ∧ set.offsetA ≤ 2047 ∧ 16 ≤ set.gainA ∧ set.gainA ≤ 1023
    ∧ -2048 ≤ set.offsetB ∧ set.offsetB ≤ 2047 ∧ 16 ≤ set.gainB ∧ set.gainB ≤ 1023
    ∧ 1 ≤ set.contactDown ∧ set.contactDown ≤ 4095 ∧ set.contactUp < set.contactDown
    ∧ set.trims.length = 80 ∧ set.dead.length ≤ 8 ∧ set.dead.Nodup ∧ ∀ n ∈ set.dead, n < 80

/-- A point of the surface (R11). -/
def OnSurface (set : Settings) (x y : Nat) : Prop := x < extentUnits set .X ∧ y < extentUnits set .Y

/-- What every REPORT keeps: pressure 0 to 4095 and 0 with *tip down* clear, tilt within ±443, position within the extent. -/
def ReportLawful (set : Settings) (r : Report) : Prop :=
  r.pressure ≤ 4095 ∧ (r.flags.tipDown = false → r.pressure = 0)
    ∧ -443 ≤ r.tiltX ∧ r.tiltX ≤ 443 ∧ -443 ≤ r.tiltY ∧ r.tiltY ≤ 443 ∧ OnSurface set r.x r.y

/-- What a pen record keeps: last reported values in range, at most M positions of the surface in the history ring, none while the tip is down (R73, R87). -/
def PenLawful (set : Settings) (p : Pen) : Prop :=
  p.lastPressure ≤ 4095 ∧ -443 ≤ p.lastTiltX ∧ p.lastTiltX ≤ 443 ∧ -443 ≤ p.lastTiltY ∧ p.lastTiltY ≤ 443
    ∧ OnSurface set p.lastX p.lastY
    ∧ p.history.length ≤ set.historyLength ∧ (p.down = true → p.history = [])
    ∧ p.writeIndex < set.historyLength ∧ p.writeIndex ≤ p.history.length
    ∧ ∀ v ∈ p.history, OnSurface set v.1 v.2

/-- Coarse loops of the surface (R11, R103). -/
def LoopsOnSurface (set : Settings) (kx ky : Nat) : Prop :=
  kx < set.columns * 48 ∧ ky < set.rows * 32

/-- A channel's part of the laws of a REPORT: its claim's coarse loops lie on the surface, its pen record is lawful. -/
def ChannelOnSurface (set : Settings) (ch : Channel) : Prop :=
  (∀ cl, ch.state = .claim cl → LoopsOnSurface set cl.coarseX cl.coarseY)
    ∧ ∀ p, ch.pen = some p → PenLawful set p

/-- The laws of a REPORT: settings in range, a working tile within the extent, windows on its own loops, peaks and pens on the surface, every REPORT in the own queue lawful (R23, R84, R86, R87, R89). -/
def ReportsLawful (s : State) : Prop :=
  ReadInStart s ∧ QuietWhenApart s ∧ SettingsLawful s.settings
    ∧ (s.apart = false → beyondExtent s.straps s.settings = false)
    ∧ (∀ r, s.engine.running = some r → r.seq.windowX ≤ 40 ∧ r.seq.windowY ≤ 24)
    ∧ (∀ c pos g peak st k, s.seek.pass = some { ch := c, stage := .y pos g peak st k } → peak < s.settings.columns * 48)
    ∧ ChannelOnSurface s.settings s.chanA ∧ ChannelOnSurface s.settings s.chanB
    ∧ ∀ r, Frame.report r ∈ s.link.own → ReportLawful s.settings r

/-! ### Terms of the statements -/

/-- What a receive path holds after some periods of LISTEN: path j hears sample j of each period (R24, R25). -/
def Path.heard (periods : List Period) (j : Nat) (p : Path) : Path where
  i := p.i + (periods.map fun v => (v.getD j ⟨0, 0, 0, 0⟩).s0.toInt - (v.getD j ⟨0, 0, 0, 0⟩).s2.toInt).sum
  q := p.q + (periods.map fun v => (v.getD j ⟨0, 0, 0, 0⟩).s1.toInt - (v.getD j ⟨0, 0, 0, 0⟩).s3.toInt).sum
  clipped := p.clipped || periods.any fun v =>
    [(v.getD j ⟨0, 0, 0, 0⟩).s0, (v.getD j ⟨0, 0, 0, 0⟩).s1, (v.getD j ⟨0, 0, 0, 0⟩).s2, (v.getD j ⟨0, 0, 0, 0⟩).s3].any
      fun x => x.toInt == -2048 || x.toInt == 2047

/-- What a receive path holds when a rise cuts LISTEN short: the completed periods, and the clipped mark of the samples taken before the cut (R25, R28). -/
def Path.heardUntil (l : Sampled) (j : Nat) (p : Path) : Path :=
  { p.heard l.periods j with
    clipped := (p.heard l.periods j).clipped || (l.cut.getD j []).any fun x => x.toInt == -2048 || x.toInt == 2047 }

/-- What a rise finds sampled: nothing in SETTLE; in LISTEN whole periods, and samples of a further one only while fewer than L have run (R16, R24). -/
def RiseFinds (l : Sampled) (r : Running) (s : State) : Prop :=
  (r.phase = .settle ∧ l = ⟨[], []⟩) ∨
    (r.phase = .listen ∧ (∀ v ∈ l.periods, v.length = 16) ∧
      (l.periods.length < s.settings.listenLength ∨ (l.periods.length = s.settings.listenLength ∧ l.cut = [])))

/-- The one loop driven is the live own X loop nearest in surface numbering to the own loop nearest to surface loop p, the lower of two equally near (R7, R9, R20). -/
def DrivesNearest (s : State) (p : Nat) (loops : List Nat) : Prop :=
  let lo := s.straps.col.val * 48
  let near := max lo (min (lo + 47) p)
  let surface := fun i => if s.straps.mirrorX then lo + 47 - i else lo + i
  let away := fun i => (surface i - near) + (near - surface i)
  ∃ i, loops = [i] ∧ i < 48 ∧ deadLoop s.settings i = false ∧
    ∀ j, j < 48 → deadLoop s.settings j = false → away i < away j ∨ (away i = away j ∧ surface i ≤ surface j)

/-- The surface number of a local loop, mirrored or not (R6, R7). -/
def loopAt (st : Straps) (ax : Axis) (i : Nat) : Nat :=
  match ax with
  | .X => if st.mirrorX then st.col.val * 48 + 47 - i else st.col.val * 48 + i
  | .Y => if st.mirrorY then st.row.val * 32 + 31 - i else st.row.val * 32 + i

/-- The amplitude and clipped mark of path n of an axis with window start w, at frequency index f; none for a dead loop (R51, R55, R66). -/
def readingOf (s : State) (f : Nat) (ax : Axis) (w n : Nat) : Option (Nat × Bool) :=
  let loop := match ax with
    | .X => w + n
    | .Y => 48 + (w + n)
  let path := s.engine.paths.getD (match ax with | .X => n | .Y => 8 + n) { i := 0, q := 0, clipped := false }
  if deadLoop s.settings loop then none
  else some ((magnitude path - (floorAt s f loop).value) * (896 + s.settings.trims.getD loop 128) / 1024, path.clipped)

/-- Place n of a run of amplitudes with clipped marks, a dead place filled from the nearest live ones: the floor of the mean of two, a copy of one, 0 without any (R67). -/
def filledPlace (run : List (Option (Nat × Bool))) (n : Nat) : Nat × Bool :=
  match run[n]?.join, (run.take n).reverse.findSome? id, (run.drop (n + 1)).findSome? id with
  | some v, _, _ => v
  | none, some b, some a => ((b.1 + a.1) / 2, b.2 || a.2)
  | none, some b, none => b
  | none, none, some a => a
  | none, none, none => (0, false)

/-- The amplitudes and clipped marks of a profile, none for its dead entries (R65). -/
def liveRun (es : List Entry) : List (Option (Nat × Bool)) :=
  es.map fun e => if e.source = .filled then none else some (e.amp, e.clipped)

/-- The driven sequence has just begun: DRIVE of 10 periods, sums and clipped marks cleared, its index MASKED (R16, R24, R25, R27). -/
def State.driving (seq : Sequence) (s : State) : State :=
  { s with
    detectors := s.detectors.set seq.job.freq .masked
    engine :=
      { running := some { phase := .drive, ends := s.now + 10 * period seq.job.freq, seq := seq }
        paths := Engine.atReset.paths } }

/-- A baseline listen of a slot has just begun: LISTEN of L periods, disturbed from the start when its index is PRESENT (R18, R23, R44, R46). -/
def State.listening (slot : Nat) (s : State) : State :=
  { s with
    engine :=
      { running := some
          { phase := .listen
            ends := s.now + s.settings.listenLength * period (slot / 6)
            seq :=
              { job := .baseline slot, loops := [], level := 0, windowX := 8 * (slot % 6)
                windowY := 8 * (slot % 6 % 4), disturbed := detectorAt (slot / 6) s == .present, abandoned := false } }
        paths := Engine.atReset.paths } }

/-- The receive path that hears a tile loop in the baseline listen of a slot, if one does (R44). -/
def slotPath (slot n : Nat) : Option Nat :=
  if n < 48 then
    if 8 * (slot % 6) ≤ n ∧ n < 8 * (slot % 6) + 8 then some (n - 8 * (slot % 6)) else none
  else if 48 + 8 * (slot % 6 % 4) ≤ n ∧ n < 48 + 8 * (slot % 6 % 4) + 8 then some (8 + (n - 48 - 8 * (slot % 6 % 4)))
  else none

/-- The command for a received frame of a kind. -/
def Kind.command (k : Kind) (dt : Nat) (body : List Byte) : Instr :=
  match k with
  | .sighting => .sighting dt body
  | .notice => .notice dt body
  | .border => .border dt body
  | .report => .report dt body
  | .yield => .yield dt body
  | .take => .take dt body
  | .lost => .lost dt body
  | .restart => .restart dt body

/-- A frame whose fields fit their places and whose values R156 admits (R155 to R160). -/
def Frame.fits : Frame → Bool
  | .sighting _ strength x y => strength < 16777216 && x < 65536 && y < 65536
  | .notice _ cycle strength wx wy => cycle < 65536 && strength < 16777216 && wx.count ≤ 3 && wy.count ≤ 3
  | .border b =>
      b.holder < 32 && b.cycle < 65536 && 1 ≤ b.count && b.count ≤ 3 && b.first < 65536
        && b.tip.length == 3 && b.tip.all (· < 65536) && b.collar.length == 3 && b.collar.all (· < 65536)
  | .report r =>
      r.level ≤ 3 && r.cycle < 65536 && r.x < 16777216 && r.y < 16777216 && r.pressure < 65536
        && -32768 ≤ r.tiltX && r.tiltX < 32768 && -32768 ≤ r.tiltY && r.tiltY < 32768 && r.drop < 256 && r.overrun < 256
  | .yield f =>
      f.target < 32 && f.cycle < 65536 && f.x < 16777216 && f.y < 16777216 && f.level ≤ 3 && f.pressure < 65536
  | .take _ releaser cycle => releaser < 32 && cycle < 65536
  | .lost _ cycle => cycle < 65536
  | .restart => true

/-- A well-formed frame f of kind k, with octets o, can come to a tile that tracks: link-in UP, room in the insertion buffer, good CRC, another station's origin, hop count below 31, channel enabled (R143 to R148, R156). -/
def Arrives (k : Kind) (o : List Byte) (f : Frame) (s : State) : Prop :=
  s.inReset = false ∧ s.tracking = true ∧ s.link.up = true ∧ s.link.buffer.length < 2
    ∧ crcGood o = true ∧ frameKind o = some k ∧ originOf o ≠ ownIndex s.straps ∧ hopOf o < 31
    ∧ readCopy k o = some f ∧ ∀ c, f.channel = some c → s.enabled c = true

/-- The state once symbols that leave no frame in reception have been received (R141, R142). -/
def State.heardLink (dt : Nat) (s : State) : State :=
  { s with
    now := s.now + dt
    link := { s.link with silence := some (s.now + dt + usec 10), reception := none } }

/-- The state once a frame's end symbol has been received and the frame has joined the insertion buffer (R141, R148). -/
def State.copied (dt : Nat) (o : List Byte) (s : State) : State :=
  { s with
    now := s.now + dt
    link := { s.link with
      silence := some (s.now + dt + usec 10), reception := none, buffer := s.link.buffer ++ [o] } }

/-- DAMP of the running sequence is over: its index leaves MASKED and the engine enters IDLE (R22, R26, R27). -/
def State.dampedOut (r : Running) (foreign : Bool) (s : State) : State :=
  { s with
    now := max s.now r.ends
    detectors := s.detectors.set r.seq.job.freq (if foreign then .present else .quiet)
    engine := { s.engine with running := none } }

/-- LISTEN of an undriven sequence has run its length: the paths hold its periods and the engine enters IDLE (R17, R18, R24, R25). -/
def State.heardOut (r : Running) (periods : List Period) (s : State) : State :=
  { s with
    now := max s.now r.ends
    engine := { running := none, paths := s.engine.paths.mapIdx (Path.heard periods) } }

/-- A rise has cut an undriven sequence short: its index is PRESENT, the paths hold what was sampled and the engine enters IDLE (R17, R18, R25, R27, R28). -/
def State.cutOut (dt f : Nat) (l : Sampled) (s : State) : State :=
  { s with
    now := s.now + dt
    detectors := s.detectors.set f .present
    engine := { running := none, paths := s.engine.paths.mapIdx (Path.heardUntil l) } }

/-- Cycle n of a held channel has just begun: cycle record, NOTICE WAIT at attempt 1 with 600 µs, NOTICE queued (R58, R112, R113, R114). -/
def State.noticed (c : Chan) (n : Nat) (cs : CycleState) (pen : Pen) (handover : Bool) (s : State) : State :=
  let record := newRecord s.straps s.settings pen n
  let asked := fun w : Option Want =>
    match w with
    | none => (⟨none, 0⟩ : WantField)
    | some v => ⟨some v.side, v.count⟩
  { s with
    link := s.link.push (.notice c n (s.chan c).lastStrength (asked record.wantX) (asked record.wantY)) }.setChan c
      { s.chan c with
        record := some record
        cycles := some { cs with
          number := some n
          current := some
            { phase := .noticeWait, attempt := 1, ringFault := false, abandoned := false
              barrier := some (s.now + usec 600), border := none, gotX := false, gotY := false
              handover := handover } } }

/-- A DORMANT tile is ACTIVE again, a seek timer with more than 4 ms left shortened to 4 ms (R94). -/
def State.woken (s : State) : State :=
  if s.mode = .dormant then
    { s with
      mode := .active
      seek := { s.seek with timer := s.seek.timer.map fun t => min t (s.now + msec 4) } }
  else s

/-- The dormant timer started with 10 s when every enabled channel is in SEEK, and stopped otherwise (R93, log 21). -/
def State.timed (s : State) : State :=
  { s with dormant := if s.allSeek then some (s.now + msec 10000) else none }

/-- The channel enters a state that takes nothing with it, and the dormant timer stops (R93). -/
def State.entered (c : Chan) (st : ChanState) (s : State) : State :=
  { s.setChan c { s.chan c with state := st } with dormant := none }

/-- A channel that leaves SEEK gives up a pass that names it: its waiting seek request leaves the queue, its running seek sequence takes the abandoned mark, and the seek timer starts with one interval (R99, R102). -/
def State.unsought (c : Chan) (s : State) : State :=
  if s.seek.pass.any (fun p => p.ch == c) then
    { s with
      queue := s.queue.filter fun q => !(q.ch == c && !q.ask.tracks)
      engine := { s.engine with
        running := s.engine.running.map fun r : Running =>
          if r.seq.job = .seekX c ∨ r.seq.job = .seekY c then { r with seq := { r.seq with abandoned := true } }
          else r }
      seek := { s.seek with
        pass := none, timer := some (s.now + if s.mode = Mode.dormant then msec 20 else msec 4) } }
  else s

/-- The channel leaves SEEK, DEFER, CLAIM or STANDBY for another state: from SEEK a pass that names it is given up (R95, R102). -/
def State.moved (c : Chan) (st : ChanState) (s : State) : State :=
  if (s.chan c).state = .seek then (s.unsought c).entered c st else s.entered c st

/-- The channel is on this tile and holds no pen: SEEK, DEFER, CLAIM or STANDBY (R95). -/
def ChanState.unheld (st : ChanState) : Prop :=
  st ≠ .absent ∧ st ≠ .hold ∧ ∀ t, st ≠ .yield t

/-- The channel's cycle is abandoned, its records gone and its state set (R58, R73, R110, R120): its waiting tracking requests leave the queue, its running tracking sequence takes the abandoned mark, and the cycle lives on until that sequence ends. -/
def State.released (c : Chan) (st : ChanState) (s : State) : State :=
  let running := s.engine.running.any fun r => r.seq.job.tracks c
  { s with
    queue := s.queue.filter fun q => !(q.ch == c && q.ask.tracks)
    dormant := none
    engine := { s.engine with
      running := s.engine.running.map fun r : Running =>
        if r.seq.job.tracks c then { r with seq := { r.seq with abandoned := true } } else r } }.setChan c
      { s.chan c with
        state := st
        record := none
        pen := none
        cycles := none
        abandoned :=
          match (s.chan c).current with
          | some cy =>
              if running then some { cy with abandoned := true, barrier := none, border := none }
              else (s.chan c).abandoned
          | none => (s.chan c).abandoned }

end Sys2Proof.Machine
end

