-- ==== Sys2Proof/Certificates/Slice0/Obligations.lean ====
section
/-! DEFINITION. The statements about the model, for the provers. -/

open Sys2Proof Sys2Proof.Machine

/-! ### The queue of commands, time and reset -/

/-- The command at the front of the queue is run on the state with the queue's rest; with an empty queue the block idles (the model's choice, log 1). -/
def Obligations.StepRunsTheFrontCommand : Prop :=
  (∀ (c : Instr) (rest : List Instr) (s : State),
    s.pending = c :: rest → step s = exec c { s with pending := rest }) ∧
  ∀ s : State, s.pending = [] → step s = .next s

/-- Every command in every state completes, leaves the waiting commands alone and never turns the clock back (the queue and the clock are the model's own, logs 1 and 2). -/
def Obligations.EveryCommandCompletes : Prop :=
  ∀ (c : Instr) (s : State), ∃ t, exec c s = .next t ∧ t.pending = s.pending ∧ s.now ≤ t.now

/-- While the part is held in reset, no command but a reset or the end of the reset changes anything but the clock (R168). -/
def Obligations.HeldInResetNothingRuns : Prop :=
  ∀ (c : Instr) (s : State), s.inReset = true →
    (∀ dt, c ≠ .powerOnReset dt) → (∀ dt, c ≠ .pinReset dt) → (∀ dt st, c ≠ .resetEnd dt st) →
    ∃ n, s.now ≤ n ∧ exec c s = .next { s with now := n }

/-- POWER_ON_RESET and PIN_RESET bring every block to its reset state (R38, R53, R72, R109, R125, R139, R153, R162); the power-on hold lasts 2 ms, a pin's pulse at least 1 µs, and a power-on hold still in progress runs on (R168, log 5). The straps and the LFSR, sampled and seeded only at the end of the reset, stay (log 5). That the tile mode is START in reset already is the model's choice (log 4), as R93 gives START from the end of the reset. -/
def Obligations.ResetStopsEveryBlock : Prop :=
  ∀ (dt : Nat) (s : State) (c : Instr), c = .powerOnReset dt ∨ c = .pinReset dt →
    ∃ t, exec c s = .next t ∧ t.inReset = true ∧ t.now = s.now + dt ∧ t.pending = s.pending ∧
      (c = .powerOnReset dt → t.resetUntil = t.now + msec 2) ∧
      (c = .pinReset dt →
        t.resetUntil = if s.inReset then max s.resetUntil (t.now + usec 1) else t.now + usec 1) ∧
      t.straps = s.straps ∧ t.seek.lfsr = s.seek.lfsr ∧
      t.mode = .start ∧ t.loader.readEnds = none ∧ t.loader.imageDefault = false ∧
      t.engine.running = none ∧ t.engine.paths = List.replicate 16 { i := 0, q := 0, clipped := false } ∧
      t.drivenLoops = [] ∧ t.dampedLoops = List.range 80 ∧
      t.detectors = List.replicate 4 .quiet ∧ t.queue = [] ∧
      t.baseline.table = List.replicate 320 { value := 0, refreshed := none, pass1 := false, pass2 := false } ∧
      t.baseline.counter = 0 ∧ t.baseline.owed = 0 ∧ t.baseline.pass = 1 ∧ t.baseline.sweeping = false ∧
      t.baseline.timer = none ∧
      (∀ ch, ChannelEmpty (t.chan ch) ∧ (t.chan ch).level = 3 ∧ (t.chan ch).lastStrength = 0) ∧
      t.seek.pass = none ∧ t.seek.timer = none ∧ t.seek.backoff = none ∧ t.seek.turn = .A ∧ t.dormant = none ∧
      t.link.sending = false ∧ t.link.buffer = [] ∧ t.link.own = [] ∧ t.link.drop = 0 ∧ t.link.up = false ∧
      t.link.count = 0 ∧ t.link.silence = none ∧ t.link.reception = none

/-- RESET_END, not before the hold has run: straps sampled (R3), LFSR seeded with tile index × 1021 + 1 (R101), mode START (R93), link-out sends from negative disparity (R140, R153), and the image read of 131 octets of 8 µs begins with the image-default flag clear (R162); nothing else changes. From that moment the EEPROM's pins run: select low for the whole transfer and high at all other times, a bit each microsecond with the clock low and then high (in equal halves by the model's choice, log 23), the bits of 3, 0 and 0 on the data pin most significant first; the clock idles low (R162). -/
def Obligations.ResetEndBeginsTheStartSequence : Prop :=
  ∀ (dt : Nat) (st : Straps) (s : State), s.inReset = true →
    let begun := max (s.now + dt) s.resetUntil
    let t : State :=
      { s with
        now := begun
        inReset := false
        straps := st
        mode := .start
        seek := { s.seek with lfsr := (st.row.val * 8 + st.col.val) * 1021 + 1 }
        loader := { s.loader with readEnds := some (begun + usec (131 * 8)), imageDefault := false }
        link := { s.link with sending := true, disparity := false, freeAt := begun } }
    exec (.resetEnd dt st) s = .next t ∧
    (∀ bit d, bit < 131 * 8 → d < usec 1 →
      let pins := t.eepromPins (begun + usec bit + d)
      pins.select = false ∧ (pins.clock = true ↔ usec 1 ≤ 2 * d) ∧
        (bit < 24 → (pins.data = true ↔ bit = 6 ∨ bit = 7))) ∧
    (∀ m, begun + usec (131 * 8) ≤ m → (t.eepromPins m).select = true ∧ (t.eepromPins m).clock = false) ∧
    ∀ (u : State) (m : Nat), u.loader.readEnds = none →
      (u.eepromPins m).select = true ∧ (u.eepromPins m).clock = false

/-! ### The calibration image -/

/-- IMAGE_LOADED takes an image with format mark 84 and a good CRC into use by the table of R161 with the clamps of R164. -/
def Obligations.GoodImageIsClampedIntoUse : Prop :=
  ∀ (o : List Byte) (s : State) (t0 : Nat), s.inReset = false → s.loader.readEnds = some t0 → o.length = 128 →
    octetAt o 0 = 84 → word2 o 126 = crcOf (o.take 126) →
    ∃ t, exec (.imageLoaded o) s = .next t ∧
      t.loader = { readEnds := none, octets := o, imageDefault := false } ∧
      t.settings.columns = max 1 (min 6 (octetAt o 1)) ∧
      t.settings.rows = max 1 (min 4 (octetAt o 2)) ∧
      (t.settings.enableB = true ↔ octetAt o 3 ≠ 0) ∧
      t.settings.listenLength = (if octetAt o 4 ≤ 11 then 8 else if octetAt o 4 ≤ 23 then 16 else 32) ∧
      t.settings.intervalCode = max 4 (min 40 (octetAt o 5)) ∧
      t.settings.historyLength = max 1 (min 8 (octetAt o 6)) ∧
      t.settings.findThreshold = word2 o 7 * 8 ∧
      t.settings.lossThreshold = word2 o 9 * 8 ∧
      t.settings.tiltThreshold = word2 o 11 * 8 ∧
      t.settings.agcTarget = word2 o 13 * 8 ∧
      t.settings.separation = max 400 (min 1600 (word2 o 15)) ∧
      t.settings.offsetA = max (-2048) (min 2047 (signed16 (word2 o 17))) ∧
      t.settings.gainA = max 16 (min 1023 (word2 o 19)) ∧
      t.settings.offsetB = max (-2048) (min 2047 (signed16 (word2 o 21))) ∧
      t.settings.gainB = max 16 (min 1023 (word2 o 23)) ∧
      t.settings.contactDown = max 1 (min 4095 (word2 o 25)) ∧
      t.settings.contactUp =
        (if word2 o 27 < t.settings.contactDown then word2 o 27 else t.settings.contactDown - 1) ∧
      (∀ n, n < 80 → trimOf t.settings n = 896 + octetAt o (29 + n)) ∧
      (∀ n, deadLoop t.settings n = true ↔ n < 80 ∧ ∃ k, k < 8 ∧ octetAt o (109 + k) = n) ∧
      t.settings.dead.Nodup

/-- IMAGE_LOADED discards an image whose format mark or CRC fails, and one of which no octet was driven, which reads 255 throughout: the default image is taken whole and the image-default flag set (R161, R162, R163). -/
def Obligations.BadImageGivesTheDefaults : Prop :=
  ∀ (o : List Byte) (s : State) (t0 : Nat), s.inReset = false → s.loader.readEnds = some t0 →
    (o.length = 128 ∧ (octetAt o 0 ≠ 84 ∨ word2 o 126 ≠ crcOf (o.take 126))) ∨ o = [] →
    ∃ t, exec (.imageLoaded o) s = .next t ∧
      t.loader = { readEnds := none, octets := [], imageDefault := true } ∧
      t.settings.columns = 4 ∧ t.settings.rows = 3 ∧ t.settings.enableB = false ∧ t.settings.listenLength = 16 ∧
      t.settings.intervalCode = 10 ∧ t.settings.historyLength = 4 ∧ t.settings.findThreshold = 6000 ∧
      t.settings.lossThreshold = 3000 ∧ t.settings.tiltThreshold = 4000 ∧ t.settings.agcTarget = 20000 ∧
      t.settings.separation = 900 ∧ t.settings.offsetA = 0 ∧ t.settings.gainA = 256 ∧ t.settings.offsetB = 0 ∧
      t.settings.gainB = 256 ∧ t.settings.contactDown = 24 ∧ t.settings.contactUp = 12 ∧
      (∀ n, n < 80 → trimOf t.settings n = 1024) ∧ t.settings.dead = []

/-- IMAGE_LOADED then compares the straps with the extent: beyond it the tile is OUTSIDE and nothing starts (R5, R166); within it the double sweep begins at counter 0, pass 1, pending count 1, and its first listen is granted (R50). -/
def Obligations.ExtentDecidesTheTileMode : Prop :=
  ∀ (o : List Byte) (s : State) (t0 : Nat), s.inReset = false → s.loader.readEnds = some t0 →
    s.mode = .start → s.engine.running = none → s.queue = [] →
    ∃ t, exec (.imageLoaded o) s = .next t ∧ t.now = max s.now t0 ∧
      (t.settings.columns ≤ s.straps.col.val ∨ t.settings.rows ≤ s.straps.row.val →
        t = { s with now := t.now, loader := t.loader, settings := t.settings, mode := .outside }) ∧
      (s.straps.col.val < t.settings.columns ∧ s.straps.row.val < t.settings.rows →
        t = { s with
              now := t.now, loader := t.loader, settings := t.settings
              baseline := { s.baseline with counter := 0, pass := 1, owed := 1, sweeping := true } }.listening 0)

/-! ### The engine's phases and the field detector -/

/-- What the engine does to the loops: in DRIVE it drives the loops of the record and no others, in every other phase and in IDLE it drives none (R16, R19 to R21, R31); in DAMP it damps exactly the loops it drove, and otherwise none (R22); undriven sequences have no such phase (`StepsKeepTheMasks`). The frequencies of the kinds of sequence and the periods of the four indices are those of R14 and R44. DRIVE_END and SETTLE_END: the engine passes to SETTLE for 3 periods with its index QUIET, or, when foreign excitation is felt as the mask lifts, is disturbed and spends 4 µs in DAMP, masked again (R16, R27, R28); then to LISTEN for L periods. Nothing else changes. -/
def Obligations.DriveAndSettleRunTheirLengths : Prop :=
  (∀ s : State, s.inReset = false →
    (s.engine.running = none → s.drivenLoops = [] ∧ s.dampedLoops = []) ∧
    ∀ r, s.engine.running = some r →
      s.drivenLoops = (if r.phase = .drive then r.seq.loops else []) ∧
        s.dampedLoops = if r.phase = .damp then r.seq.loops else []) ∧
  (∀ (c : Chan) (k : Coil), let tipIndex := match c with
      | .A => 0
      | .B => 2
    (Job.tip c).freq = tipIndex ∧ (Job.collar c).freq = tipIndex + 1 ∧ (Job.seekX c).freq = tipIndex ∧
      (Job.seekY c).freq = tipIndex ∧ (Job.capture c k).freq = if k = .tip then tipIndex else tipIndex + 1) ∧
  (∀ slot, (Job.baseline slot).freq = slot / 6) ∧
  period 0 * 416 = usec 1000 ∧ period 1 * 448 = usec 1000 ∧ period 2 * 512 = usec 1000 ∧ period 3 * 544 = usec 1000 ∧
  ∀ (s : State) (r : Running), s.inReset = false → s.engine.running = some r →
    (r.phase = .drive → r.seq.job.driven = true → ∀ foreign : Bool,
      exec (.driveEnd foreign) s = .next
        (if foreign then
          { s with
            now := max s.now r.ends
            detectors := s.detectors.set r.seq.job.freq .masked
            engine := { s.engine with
              running := some
                { phase := .damp, ends := max s.now r.ends + usec 4, seq := { r.seq with disturbed := true } } } }
        else
          { s with
            now := max s.now r.ends
            detectors := s.detectors.set r.seq.job.freq .quiet
            engine := { s.engine with
              running := some
                { phase := .settle, ends := max s.now r.ends + 3 * period r.seq.job.freq, seq := r.seq } } })) ∧
    (r.phase = .settle →
      exec .settleEnd s = .next
        { s with
          now := max s.now r.ends
          engine := { s.engine with
            running := some
              { phase := .listen
                ends := max s.now r.ends + s.settings.listenLength * period r.seq.job.freq
                seq := r.seq } } })

/-- LISTEN_END of a driven sequence: every path has added s0 − s2 and s1 − s3 of each of the L periods and bears the clipped mark when a sample was −2048 or 2047 (R24, R25); the engine enters DAMP for 4 µs and masks its index (R16, R27). Nothing else changes. -/
def Obligations.ListenAccumulatesThenDamps : Prop :=
  ∀ (periods : List Period) (fall : Option Freq) (s : State) (r : Running), s.inReset = false →
    s.engine.running = some r → r.phase = .listen → r.seq.job.driven = true →
    periods.length = s.settings.listenLength → (∀ v ∈ periods, v.length = 16) → s.engine.paths.length = 16 →
    exec (.listenEnd periods fall) s = .next
      { s with
        now := max s.now r.ends
        detectors := s.detectors.set r.seq.job.freq .masked
        engine :=
          { running := some { phase := .damp, ends := max s.now r.ends + usec 4, seq := r.seq }
            paths := s.engine.paths.mapIdx (Path.heard periods) } }

/-- FIELD_RISE: in QUIET the index becomes PRESENT, in PRESENT and MASKED nothing is reported; outside SETTLE and LISTEN of its own frequency a rise changes the detector's state alone (R27, R28). -/
def Obligations.RiseElsewhereIsOnlyRecorded : Prop :=
  ∀ (dt : Nat) (f : Freq) (sampled : Sampled) (fall : Option Freq) (s : State), s.inReset = false →
    (∀ r, s.engine.running = some r → r.seq.job.freq ≠ f.val ∨ r.phase = .drive ∨ r.phase = .damp) ∨
      detectorAt f.val s ≠ .quiet →
    exec (.fieldRise dt f sampled fall) s = .next
      { s with
        now := s.now + dt
        detectors := if detectorAt f.val s = .quiet then s.detectors.set f.val .present else s.detectors }

/-- FIELD_RISE at the frequency of a driven sequence in SETTLE or LISTEN disturbs it: sampling stops with the sums of the completed periods and the clipped marks of every sample taken before the cut (R25, log 11), the disturbed mark is set, and DAMP runs its full 4 µs (R28). For an undriven sequence see `AbandonedAndDisturbedResultsFormNothing`. -/
def Obligations.RiseDisturbsADrivenListen : Prop :=
  ∀ (dt : Nat) (f : Freq) (sampled : Sampled) (fall : Option Freq) (s : State) (r : Running),
    s.inReset = false → s.engine.running = some r → r.seq.job.freq = f.val → r.seq.job.driven = true →
    detectorAt f.val s = .quiet → RiseFinds sampled r s → s.engine.paths.length = 16 →
    exec (.fieldRise dt f sampled fall) s = .next
      { s with
        now := s.now + dt
        detectors := s.detectors.set f.val .masked
        engine :=
          { running := some { phase := .damp, ends := s.now + dt + usec 4, seq := { r.seq with disturbed := true } }
            paths := s.engine.paths.mapIdx (Path.heardUntil sampled) } }

/-- FIELD_FALL on a PRESENT index: with the engine IDLE and an armed coil of that frequency not yet captured, a border capture begins in SETTLE for 3 periods on the edge group of the armed axis and side (R10, R17, R23, R30); otherwise only the detector's state changes, and on an index that is not PRESENT nothing does (R27, R30). -/
def Obligations.FallStartsABorderCapture : Prop :=
  ∀ (dt : Nat) (f : Freq) (s : State), s.inReset = false →
    (detectorAt f.val s ≠ .present → exec (.fieldFall dt f) s = .next { s with now := s.now + dt }) ∧
    (detectorAt f.val s = .present →
      (s.engine.running.isSome = true ∨ (s.chan (freqChan f.val)).arming = none ∨
        (∃ a, (s.chan (freqChan f.val)).arming = some a ∧ (a.captured (freqCoil f.val)).isSome = true) →
        exec (.fieldFall dt f) s = .next
          { s with now := s.now + dt, detectors := s.detectors.set f.val .quiet }) ∧
      (∀ a, s.engine.running = none → (s.chan (freqChan f.val)).arming = some a →
        a.captured (freqCoil f.val) = none →
        exec (.fieldFall dt f) s = .next
          ({ s with
            now := s.now + dt
            detectors := s.detectors.set f.val .quiet
            engine :=
              { running := some
                  { phase := .settle
                    ends := s.now + dt + 3 * period f.val
                    seq :=
                      { job := .capture (freqChan f.val) (freqCoil f.val), loops := [], level := 0
                        windowX :=
                          match a.axis with
                          | .X => if (a.side = Side.high ↔ s.straps.mirrorX = false) then 40 else 0
                          | .Y => 0
                        windowY :=
                          match a.axis with
                          | .X => 0
                          | .Y => if (a.side = Side.high ↔ s.straps.mirrorY = false) then 24 else 0
                        disturbed := false, abandoned := false } }
                paths := Engine.atReset.paths } }.setChan (freqChan f.val)
            { s.chan (freqChan f.val) with arming := some { a with capturing := true } })))

/-- A grant to the idle engine chooses a forced refresh first, then the oldest eligible tracking request, then the oldest eligible seek request, then an ordinary refresh; a tracking request is eligible exactly while its channel is in HOLD, a seek request exactly while it is in SEEK (R34); the chosen request leaves the queue, ineligible ones passed over leave too, and the others keep their places (R32, R33, R34). The record taken: tip and collar sequences drive the live own X loop nearest the channel's last tip X peak at the channel's level, with the request's windows (R19, R20, R23); a seek X stage drives the group's live loops, a seek Y stage the live own X loop nearest the one it names, both at level 3 with the windows on their groups (R19, R20, R21, R23); a window start beyond its range is clamped (R23), and both marks are clear. -/
def Obligations.GrantFollowsTheOrder : Prop :=
  ∀ s : State, s.engine.running = none → s.mode ≠ .outside →
    let tracks := fun r : Request => decide (r.ask.work ≠ .seek)
    let fit := fun r : Request =>
      if r.ask.work = .seek then (s.chan r.ch).state = .seek else (s.chan r.ch).state = .hold
    let chosen := fun (cls : Request → Bool) (i : Nat) (r : Request) =>
      s.queue[i]? = some r ∧ cls r = true ∧ fit r ∧
        ∀ j x, j < i → s.queue[j]? = some x → cls x = true → ¬ fit x
    let noneOf := fun cls : Request → Bool => ∀ x ∈ s.queue, cls x = true → ¬ fit x
    (s.baseline.owed = 8 → grant s = s.listening s.baseline.counter) ∧
    (s.baseline.owed < 8 → ∀ i r, chosen tracks i r →
      grant s = { s with
        queue := (s.queue.take i).filter (fun x => !tracks x) ++ s.queue.drop (i + 1) }.driving (sequenceOf r s)) ∧
    (s.baseline.owed < 8 → noneOf tracks → ∀ i r, chosen (fun x => !tracks x) i r →
      grant s = { s with
        queue := (s.queue.drop (i + 1)).filter (fun x => !tracks x) }.driving (sequenceOf r s)) ∧
    (s.baseline.owed < 8 → noneOf tracks → noneOf (fun x => !tracks x) →
      grant s =
        if s.baseline.owed = 0 then { s with queue := [] }
        else { s with queue := [] }.listening s.baseline.counter) ∧
    ∀ r : Request,
      let q := sequenceOf r s
      let lives := ∃ i, i < 48 ∧ deadLoop s.settings i = false
      q.disturbed = false ∧ q.abandoned = false ∧
      (∀ wx wy, r.ask = .tip wx wy ∨ r.ask = .collar wx wy →
        q.job = (if r.ask = .tip wx wy then Job.tip r.ch else .collar r.ch) ∧ q.level = (s.chan r.ch).level ∧
          q.windowX = min wx 40 ∧ q.windowY = min wy 24 ∧
          ∀ pen, (s.chan r.ch).pen = some pen → lives → DrivesNearest s pen.peakX q.loops) ∧
      (∀ g, r.ask = .seekX g →
        q.job = .seekX r.ch ∧ q.level = 3 ∧ q.windowX = min (8 * g) 40 ∧ q.windowY = 0 ∧ q.loops.Nodup ∧
          ∀ i, i ∈ q.loops ↔ 8 * g ≤ i ∧ i < 8 * g + 8 ∧ deadLoop s.settings i = false) ∧
      ∀ loop g h, r.ask = .seekY loop g h →
        q.job = .seekY r.ch ∧ q.level = 3 ∧ q.windowX = min (8 * g) 40 ∧ q.windowY = min (8 * h) 24 ∧
          (lives → DrivesNearest s loop q.loops)

/-- A request that arrives joins the queue's end, or takes the place of the waiting request of its requester, the same channel's tip, collar or seek of either stage; an idle engine then grants, a running one leaves it waiting (R32, R33). A fall taken between a sequence's end and the grant acts as FIELD_FALL does at that moment (R35, log 10). -/
def Obligations.RequestWaitsOrIsGranted : Prop :=
  (∀ (r : Request) (s : State), (∀ x ∈ s.queue, ¬ SameRequester r x) →
    submit (some r) s =
      if s.engine.running.isSome then { s with queue := s.queue ++ [r] }
      else grant { s with queue := s.queue ++ [r] }) ∧
  (∀ (r x : Request) (before after : List Request) (s : State), s.queue = before ++ x :: after →
    SameRequester r x → (∀ y ∈ before ++ after, ¬ SameRequester r y) →
    submit (some r) s =
      if s.engine.running.isSome then { s with queue := before ++ r :: after }
      else grant { s with queue := before ++ r :: after }) ∧
  ∀ (f : Freq) (s : State), s.inReset = false → exec (.fieldFall 0 f) s = .next (fallFirst (some f) s)

/-! ### Tracking sequences -/

/-- DAMP_END of a tip sequence of the cycle in progress (R115): undisturbed, the tip profiles are formed and the collar sequence is asked for with the cycle's windows; disturbed at the first attempt, the same sequence is asked for again; disturbed at the second, the cycle ends with a held report (R92, R119) and the yield test. The engine is IDLE, a fall is taken, the grant is made, and then the request arrives (R26, R35, log 10). -/
def Obligations.TipResultDecides : Prop :=
  ∀ (foreign : Bool) (fall : Option Freq) (s : State) (r : Running) (c : Chan) (cs : CycleState) (cy : Cycle)
    (rec : CycleRecord) (pen : Pen) (n : Nat), s.inReset = false →
    s.engine.running = some r → r.phase = .damp → r.seq.job = .tip c → r.seq.abandoned = false →
    (s.chan c).cycles = some cs → cs.current = some cy → cy.phase = .tip → cs.number = some n →
    (s.chan c).record = some rec → (s.chan c).pen = some pen →
    let b := s.dampedOut r foreign
    let ch := s.chan c
    (r.seq.disturbed = false →
      exec (.dampEnd foreign fall) s = .next
        (submit (some { ch := c, ask := .collar rec.windowX rec.windowY })
          (grant (fallFirst fall (b.setChan c
            { ch with
              record := some (formTip b c r.seq.windowX r.seq.windowY rec)
              cycles := some { cs with current := some { cy with phase := .collar } } }))))) ∧
    (r.seq.disturbed = true → cy.attempt = 1 →
      exec (.dampEnd foreign fall) s = .next
        (submit (some { ch := c, ask := .tip rec.windowX rec.windowY })
          (grant (fallFirst fall (b.setChan c
            { ch with cycles := some { cs with current := some { cy with attempt := 2 } } }))))) ∧
    (r.seq.disturbed = true → cy.attempt ≠ 1 →
      let report : Report :=
        { ch := c, level := ch.level, cycle := n, x := pen.lastX, y := pen.lastY
          pressure := if pen.down then pen.lastPressure else 0
          tiltX := pen.lastTiltX, tiltY := pen.lastTiltY
          flags :=
            { tipDown := pen.down, positionHeld := true, pressureHeld := true, tiltHeld := true, disturbed := true
              ringFault := cy.ringFault, imageDefaults := s.loader.imageDefault, handover := cy.handover }
          drop := 0, overrun := cs.overrun }
      exec (.dampEnd foreign fall) s = .next
        (grant (fallFirst fall
          (yieldTest c (heldContents ch.level pen) n cs.spacing
            ({ b with link := s.link.push (.report report) }.setChan c
              { ch with cycles := some { cs with current := none, overrun := 0 } })))))

/-- DAMP_END of a collar sequence of the cycle in progress: undisturbed, the collar profiles are formed; disturbed, they are not; then BORDER WAIT begins with 296 µs, and ends at once when no BORDER frame is awaited (R116, R117, R118). -/
def Obligations.CollarResultOpensTheBorderWait : Prop :=
  ∀ (foreign : Bool) (fall : Option Freq) (s : State) (r : Running) (c : Chan) (cs : CycleState) (cy : Cycle)
    (rec : CycleRecord), s.inReset = false →
    s.engine.running = some r → r.phase = .damp → r.seq.job = .collar c → r.seq.abandoned = false →
    (s.chan c).cycles = some cs → cs.current = some cy → cy.phase = .collar → (s.chan c).record = some rec →
    let b := s.dampedOut r foreign
    let waiting := b.setChan c
      { s.chan c with
        record := some (if r.seq.disturbed then rec else formCollar b c r.seq.windowX r.seq.windowY rec)
        cycles := some { cs with
          current := some { cy with phase := .borderWait, border := some (max s.now r.ends + usec 296) } } }
    let awaited := (rec.wantX.isSome = true ∧ cy.gotX = false) ∨ (rec.wantY.isSome = true ∧ cy.gotY = false)
    (awaited → exec (.dampEnd foreign fall) s = .next (grant (fallFirst fall waiting))) ∧
    (¬ awaited →
      exec (.dampEnd foreign fall) s = .next
        (submit (endBorderWait c waiting).2 (grant (fallFirst fall (endBorderWait c waiting).1))))

/-- BORDER_TIMER_EXPIRY, and with it every end of a border wait (R118): the record is closed (each dead entry filled from its nearest live list neighbours, an edge mark set where the tip profile holds fewer border entries than wanted; R67, R68, R70), the estimator runs once (R75), the REPORT is queued with the overrun count, which becomes 0 (R119), and then either LOST is queued and the channel enters SEEK (R80, R137), its records gone, the dormant timer at 10 s when every enabled channel is now in SEEK, and a pass begun at once when neither seek timer runs and no pass is in progress (R93, R96), or the yield test follows (R126). -/
def Obligations.BorderWaitEndsWithAReport : Prop :=
  ∀ (s : State) (c : Chan) (cs : CycleState) (cy : Cycle) (rec : CycleRecord) (pen : Pen) (n : Nat),
    (s.chan c).cycles = some cs → cs.current = some cy → cs.number = some n →
    (s.chan c).record = some rec → (s.chan c).pen = some pen →
    let e := estimate s.settings c (s.chan c).level (closeRecord rec) pen
    let report : Report :=
      { ch := c, level := e.contents.level, cycle := n, x := e.contents.x, y := e.contents.y
        pressure := e.contents.pressure, tiltX := e.contents.tiltX, tiltY := e.contents.tiltY
        flags :=
          { e.contents.flags with
            disturbed := false, ringFault := cy.ringFault, handover := cy.handover
            imageDefaults := s.loader.imageDefault }
        drop := 0, overrun := cs.overrun }
    let reported := { s with link := s.link.push (.report report) }.setChan c
      { s.chan c with
        record := some (closeRecord rec), pen := some e.pen, level := e.level, lastStrength := e.strength
        cycles := some { cs with current := none, overrun := 0 } }
    let closed := closeRecord rec
    (e.lost = false → endBorderWait c s = (yieldTest c e.contents n cs.spacing reported, none)) ∧
    (e.lost = true →
      let lost := { reported with link := reported.link.push (.lost c n) }
      let b := (lost.released c .seek).timed
      endBorderWait c s = enterSeek c lost ∧
      ((s.chan c).state = .hold →
        (b.chan c).state = .seek ∧ (b.chan c).record = none ∧ (b.chan c).pen = none ∧ (b.chan c).cycles = none ∧
        (s.seek.timer ≠ none ∨ s.seek.backoff ≠ none ∨ s.seek.pass ≠ none ∨ (∀ d, b.seeks d = false) →
          endBorderWait c s = (b, none)) ∧
        (s.seek.timer = none → s.seek.backoff = none → s.seek.pass = none →
          ∀ d, b.seeks d = true → (d = s.seek.turn ∨ b.seeks s.seek.turn = false) →
          endBorderWait c s =
            ({ b with seek := { s.seek with pass := some { ch := d, stage := .x 0 }, turn := otherChan d } },
              some { ch := d, ask := .seekX 0 })))) ∧
    (closed = { rec with
        tipX := closed.tipX, tipY := closed.tipY, collarX := closed.collarX, collarY := closed.collarY
        edgeX := closed.edgeX, edgeY := closed.edgeY } ∧
      (∀ (k : Coil) (ax : Axis), (closed.profile k ax).length = (rec.profile k ax).length ∧
        ∀ (i : Nat) (x : Entry), (rec.profile k ax)[i]? = some x →
          (closed.profile k ax)[i]? = some
            { x with
              amp := (filledPlace (liveRun (rec.profile k ax)) i).1
              clipped := (filledPlace (liveRun (rec.profile k ax)) i).2 }) ∧
      (closed.edgeX = true ↔ ∃ w, rec.wantX = some w ∧ (rec.tipX.filter (·.source = .border)).length < w.count) ∧
      (closed.edgeY = true ↔ ∃ w, rec.wantY = some w ∧ (rec.tipY.filter (·.source = .border)).length < w.count)) ∧
    ∀ t0, s.inReset = false → cy.border = some t0 →
      exec (.borderTimerExpiry c) s =
        .next (submit (endBorderWait c { s with now := max s.now t0 }).2
          (endBorderWait c { s with now := max s.now t0 }).1)

/-- The yield test after a REPORT (R126): above 0 the spacing count falls by 1 and no test is made; a position 128 units or more past a border of the tile's span calls for the YIELD, aimed at the owning tile, and the channel enters YIELD with 2 ms (R12, R127); otherwise nothing follows. -/
def Obligations.YieldTestHandsOver : Prop :=
  ∀ (s : State) (c : Chan) (ct : Contents) (n : Nat) (cs : CycleState) (pen : Pen),
    (s.chan c).cycles = some cs → (s.chan c).pen = some pen →
    let past := ct.x + 128 ≤ s.straps.col.val * 12288 ∨ s.straps.col.val * 12288 + 12287 + 128 ≤ ct.x ∨
      ct.y + 128 ≤ s.straps.row.val * 8192 ∨ s.straps.row.val * 8192 + 8191 + 128 ≤ ct.y
    (0 < cs.spacing →
      yieldTest c ct n cs.spacing s =
        s.setChan c { s.chan c with cycles := some { cs with spacing := cs.spacing - 1 } }) ∧
    (cs.spacing = 0 → ¬ past → yieldTest c ct n cs.spacing s = s) ∧
    (cs.spacing = 0 → past →
      yieldTest c ct n cs.spacing s =
        { s with
          link := s.link.push (.yield
            { ch := c, target := ct.y / 8192 * 8 + ct.x / 12288, cycle := n, x := ct.x, y := ct.y
              level := (s.chan c).level, contact := pen.down, pressure := ct.pressure }) }.setChan c
          { s.chan c with state := .yield (s.now + msec 2), record := none })

/-! ### Seek sequences -/

/-- DAMP_END of a seek's X stage (R97): a peak amplitude at or above the find threshold opens the Y stage with the first Y group; below it the pass goes to the next X group, or is complete after the sixth and the seek interval starts (R99). A disturbed result of either stage abandons the pass, steps the LFSR, which adds 1 when an odd number of the weights 32768, 8192, 4096 and 1024 are present, and starts a backoff of 1 to 8 times 40 µs (R100, R101). -/
def Obligations.SeekXStageDecides : Prop :=
  ∀ (foreign : Bool) (fall : Option Freq) (s : State) (r : Running) (c : Chan) (stage : Stage), s.inReset = false →
    s.engine.running = some r → r.phase = .damp → r.seq.job = .seekX c ∨ r.seq.job = .seekY c →
    r.seq.abandoned = false → s.seek.pass = some { ch := c, stage := stage } →
    let b := s.dampedOut r foreign
    let peak := peakEntry (filledRun b .X (coilFreq c .tip) r.seq.windowX)
    let x := fun k => [0, 4, 2, 1, 5, 3].getD k 0
    let after := fun (seek : Seek) => grant (fallFirst fall { b with seek := seek })
    let lfsr := 2 * s.seek.lfsr % 65536 + ([15, 13, 12, 10].filter fun k => s.seek.lfsr.testBit k).length % 2
    (r.seq.disturbed = true →
      exec (.dampEnd foreign fall) s = .next
        (after { s.seek with
          pass := none, lfsr := lfsr, backoff := some (b.now + usec ((1 + lfsr % 8) * 40)) })) ∧
    (∀ pos, r.seq.disturbed = false → stage = .x pos → s.settings.findThreshold ≤ peak.amp →
      exec (.dampEnd foreign fall) s = .next
        (submit (some { ch := c, ask := .seekY peak.loop (x pos) 0 })
          (after { s.seek with pass := some { ch := c, stage := .y pos (x pos) peak.loop peak.amp 0 } }))) ∧
    (∀ pos, r.seq.disturbed = false → stage = .x pos → peak.amp < s.settings.findThreshold → pos < 5 →
      exec (.dampEnd foreign fall) s = .next
        (submit (some { ch := c, ask := .seekX (x (pos + 1)) })
          (after { s.seek with pass := some { ch := c, stage := .x (pos + 1) } }))) ∧
    (r.seq.disturbed = false → stage = .x 5 → peak.amp < s.settings.findThreshold →
      exec (.dampEnd foreign fall) s = .next
        (after { s.seek with
          pass := none, timer := some (b.now + if s.mode = Mode.dormant then msec 20 else msec 4) }))

/-- DAMP_END of a seek's Y stage (R98): at or above the find threshold it is a find: a DORMANT tile wakes, SIGHTING is queued, the pass ends with the seek interval, the channel enters CLAIM with 600 µs (R94, R99, R103); below it the next Y group follows, and after the fourth the pass goes to the next X group. -/
def Obligations.SeekYStageDecides : Prop :=
  ∀ (foreign : Bool) (fall : Option Freq) (s : State) (r : Running) (c : Chan) (pos g loop st k : Nat),
    s.inReset = false → s.engine.running = some r → r.phase = .damp → r.seq.job = .seekX c ∨ r.seq.job = .seekY c →
    r.seq.abandoned = false → r.seq.disturbed = false → (s.chan c).state = .seek →
    s.seek.pass = some { ch := c, stage := .y pos g loop st k } →
    let b := s.dampedOut r foreign
    let peak := peakEntry (filledRun b .Y (coilFreq c .tip) r.seq.windowY)
    (s.settings.findThreshold ≤ peak.amp →
      exec (.dampEnd foreign fall) s = .next
        (grant (fallFirst fall
          ({ b with
            mode := if s.mode = Mode.dormant then .active else s.mode
            seek := { s.seek with pass := none, timer := some (b.now + msec 4) }
            link := s.link.push (.sighting c st loop peak.loop) }.entered c
              (.claim
                { strength := st, coarseX := loop, coarseY := peak.loop, best := none
                  timer := b.now + usec 600 }))))) ∧
    (peak.amp < s.settings.findThreshold → k < 3 →
      exec (.dampEnd foreign fall) s = .next
        (submit (some { ch := c, ask := .seekY loop g ([0, 2, 1, 3].getD (k + 1) 0) })
          (grant (fallFirst fall { b with
            seek := { s.seek with pass := some { ch := c, stage := .y pos g loop st (k + 1) } } })))) ∧
    (peak.amp < s.settings.findThreshold → k = 3 → pos < 5 →
      exec (.dampEnd foreign fall) s = .next
        (submit (some { ch := c, ask := .seekX ([0, 4, 2, 1, 5, 3].getD (pos + 1) 0) })
          (grant (fallFirst fall { b with
            seek := { s.seek with pass := some { ch := c, stage := .x (pos + 1) } } })))) ∧
    (peak.amp < s.settings.findThreshold → k = 3 → pos = 5 →
      exec (.dampEnd foreign fall) s = .next
        (grant (fallFirst fall { b with
          seek := { s.seek with
            pass := none, timer := some (b.now + if s.mode = Mode.dormant then msec 20 else msec 4) } })))

/-! ### Results that form nothing -/

/-- The result of an abandoned sequence is discarded: the engine only enters IDLE, a fall is taken and the grant is made (R26); an abandoned cycle of the channel whose tracking sequence it was is over, and a first cycle that waited for it starts (R112, R120). LISTEN_END of an undriven sequence, and FIELD_RISE at its frequency in SETTLE or LISTEN, which ends it at once and disturbs it (R17, R18, R28; a baseline listen granted while its index was PRESENT included, log 22): an abandoned or disturbed baseline listen writes nothing and is not counted (R49, R50); a capture that is abandoned, or whose arming record has ended or been replaced, forms nothing (R122, log 14); a disturbed one leaves its coil uncaptured (R122). -/
def Obligations.AbandonedAndDisturbedResultsFormNothing : Prop :=
  (∀ (foreign : Bool) (fall : Option Freq) (s : State) (r : Running), s.inReset = false →
    s.engine.running = some r → r.phase = .damp → r.seq.abandoned = true →
    let b := s.dampedOut r foreign
    (∀ c, r.seq.job = .seekX c ∨ r.seq.job = .seekY c →
      exec (.dampEnd foreign fall) s = .next (grant (fallFirst fall b))) ∧
    (∀ c, r.seq.job = .tip c ∨ r.seq.job = .collar c →
      ((s.chan c).state ≠ .hold ∨ ∃ cs, (s.chan c).cycles = some cs ∧ cs.number ≠ none) →
      exec (.dampEnd foreign fall) s = .next
        (grant (fallFirst fall (b.setChan c { s.chan c with abandoned := none })))) ∧
    (∀ c cs pen, r.seq.job = .tip c ∨ r.seq.job = .collar c → (s.chan c).state = .hold →
      (s.chan c).cycles = some cs → cs.number = none → (s.chan c).pen = some pen →
      exec (.dampEnd foreign fall) s = .next
        (grant (fallFirst fall
          ((b.setChan c { s.chan c with abandoned := none }).noticed c cs.firstNumber cs pen cs.byTake))))) ∧
  ∀ (fall : Option Freq) (s : State) (r : Running), s.inReset = false → s.engine.running = some r →
    r.seq.job.driven = false → s.engine.paths.length = 16 →
    let formsNothing := fun (i : Instr) (disturbed : Bool) (b : State) =>
      (∀ slot, r.seq.job = .baseline slot → r.seq.abandoned = true ∨ disturbed = true →
        exec i s = .next (grant (fallFirst fall b))) ∧
      (∀ c k, r.seq.job = .capture c k →
        r.seq.abandoned = true ∨ (∀ a, (s.chan c).arming = some a → a.capturing = false) →
        exec i s = .next (grant (fallFirst fall b))) ∧
      (∀ c k a, r.seq.job = .capture c k → r.seq.abandoned = false → disturbed = true →
        (s.chan c).arming = some a → a.capturing = true →
        exec i s = .next
          (grant (fallFirst fall (b.setChan c { s.chan c with arming := some { a with capturing := false } }))))
    (∀ periods : List Period, r.phase = .listen → periods.length = s.settings.listenLength →
      (∀ v ∈ periods, v.length = 16) →
      formsNothing (.listenEnd periods fall) r.seq.disturbed (s.heardOut r periods)) ∧
    ∀ (dt : Nat) (f : Freq) (sampled : Sampled), r.seq.job.freq = f.val → detectorAt f.val s = .quiet →
      RiseFinds sampled r s → formsNothing (.fieldRise dt f sampled fall) true (s.cutOut dt f.val sampled)

/-! ### Undriven listens -/

/-- LISTEN_END of a border capture for the arming record that started it (R122): the wanted loops' amplitudes and clipped marks are stored, ascending, out of the eight paths of the edge group with its dead loops filled (R10, R55, R62, R67); with both coils captured the BORDER is queued, its places the amplitudes divided by 4 and at most 65535 and 0 beyond the count, and the record is gone (R62, R123). -/
def Obligations.CaptureResultIsStored : Prop :=
  ∀ (periods : List Period) (fall : Option Freq) (s : State) (r : Running) (c : Chan) (k : Coil) (a : Arming),
    s.inReset = false → s.engine.running = some r → r.phase = .listen → s.engine.paths.length = 16 →
    periods.length = s.settings.listenLength → (∀ v ∈ periods, v.length = 16) →
    r.seq.job = .capture c k → r.seq.abandoned = false → r.seq.disturbed = false →
    (s.chan c).arming = some a → a.capturing = true →
    let b := s.heardOut r periods
    let got := captureOf b c k a
    let mirror := match a.axis with
      | .X => s.straps.mirrorX
      | .Y => s.straps.mirrorY
    let start := if (a.side = Side.high ↔ mirror = false) then axisLoops a.axis - 8 else 0
    let lowest := if a.side = Side.high then ownHi s.straps a.axis - 7 else ownLo s.straps a.axis
    let run := (List.range 8).map fun n =>
      readingOf b (2 * chanIndex c + coilIndex k) a.axis start (if mirror then 7 - n else n)
    let place := fun (v : Capture) (n : Nat) => min ((v.map Prod.fst).getD n 0 / 4) 65535
    let frame := fun (tip collar : Capture) => Frame.border
      { ch := c, holder := a.holder, cycle := a.cycle, axis := a.axis, count := a.count, collarAbsent := false
        tipClipped := tip.any Prod.snd, collarClipped := collar.any Prod.snd, first := a.first
        tip := [place tip 0, place tip 1, place tip 2], collar := [place collar 0, place collar 1, place collar 2] }
    (lowest ≤ a.first → a.first + a.count ≤ lowest + 8 →
      got = (List.range a.count).map fun n => filledPlace run (a.first - lowest + n)) ∧
    (k = .tip → a.collar = none →
      exec (.listenEnd periods fall) s = .next
        (grant (fallFirst fall
          (b.setChan c { s.chan c with arming := some { a with tip := some got, capturing := false } })))) ∧
    (k = .collar → a.tip = none →
      exec (.listenEnd periods fall) s = .next
        (grant (fallFirst fall
          (b.setChan c { s.chan c with arming := some { a with collar := some got, capturing := false } })))) ∧
    (∀ other, k = .tip → a.collar = some other →
      exec (.listenEnd periods fall) s = .next
        (grant (fallFirst fall
          ({ b with link := s.link.push (frame got other) }.setChan c { s.chan c with arming := none })))) ∧
    (∀ other, k = .collar → a.tip = some other →
      exec (.listenEnd periods fall) s = .next
        (grant (fallFirst fall
          ({ b with link := s.link.push (frame other got) }.setChan c { s.chan c with arming := none }))))

/-- LISTEN_END of an undisturbed refresh (R47, R48): each record of the slot whose loop is live and whose path did not clip moves a quarter of the way to the path's magnitude, truncated toward zero, and takes the time; every other record stays; the pending count falls by 1 and the counter steps from the slot served as the tile mode says. -/
def Obligations.RefreshMovesTheFloors : Prop :=
  ∀ (periods : List Period) (fall : Option Freq) (s : State) (r : Running) (slot : Nat),
    s.inReset = false → s.engine.running = some r → r.phase = .listen → s.engine.paths.length = 16 →
    periods.length = s.settings.listenLength → (∀ v ∈ periods, v.length = 16) →
    r.seq.job = .baseline slot → slot < 24 → r.seq.abandoned = false → r.seq.disturbed = false →
    s.baseline.sweeping = false → s.baseline.table.length = 320 →
    let b := s.heardOut r periods
    ∃ table : List Floor,
      exec (.listenEnd periods fall) s = .next
        (grant (fallFirst fall { b with baseline := { s.baseline with
          table := table
          owed := s.baseline.owed - 1
          counter :=
            if s.mode = .dormant then (if slot % 2 = 0 then (slot + 2) % 24 else (slot + 1) % 24)
            else (slot + 1) % 24 } })) ∧
      table.length = 320 ∧
      ∀ f n, f < 4 → n < 80 → ∃ old new, s.baseline.table[f * 80 + n]? = some old ∧ table[f * 80 + n]? = some new ∧
        ((∃ j p, f = slot / 6 ∧ slotPath slot n = some j ∧ b.engine.paths[j]? = some p ∧ p.clipped = false ∧
            deadLoop s.settings n = false ∧
            new = { old with
              value :=
                if old.value ≤ magnitude p then old.value + (magnitude p - old.value) / 4
                else old.value - (old.value - magnitude p) / 4
              refreshed := some b.now }) ∨
          (new = old ∧
            (f ≠ slot / 6 ∨ slotPath slot n = none ∨ deadLoop s.settings n = true ∨
              ∃ j p, slotPath slot n = some j ∧ b.engine.paths[j]? = some p ∧ p.clipped = true)))

/-- LISTEN_END of an undisturbed listen of the double sweep (R50): in each pass a live unclipped record is written once, with the magnitude in the first pass, and in the second with the floor of the mean of both, or the magnitude alone where the first pass wrote none; then the next slot, the second pass, or the end: ACTIVE, pending count 0, refresh timer 8 ms, every enabled channel in SEEK, dormant timer 10 s, and the first pass of channel A (R45, R93, R95, R109). -/
def Obligations.SweepWritesEachRecordOncePerPass : Prop :=
  ∀ (periods : List Period) (fall : Option Freq) (s : State) (r : Running) (slot : Nat),
    s.inReset = false → s.engine.running = some r → r.phase = .listen → s.engine.paths.length = 16 →
    periods.length = s.settings.listenLength → (∀ v ∈ periods, v.length = 16) →
    r.seq.job = .baseline slot → slot < 24 → r.seq.abandoned = false → r.seq.disturbed = false →
    s.baseline.sweeping = true → s.baseline.table.length = 320 → s.baseline.counter = slot →
    s.baseline.pass = 1 ∨ s.baseline.pass = 2 →
    let b := s.heardOut r periods
    ∃ table : List Floor,
      (slot < 23 →
        exec (.listenEnd periods fall) s = .next
          (grant (fallFirst fall { b with baseline := { s.baseline with table := table, counter := slot + 1 } }))) ∧
      (slot = 23 → s.baseline.pass = 1 →
        exec (.listenEnd periods fall) s = .next
          (grant (fallFirst fall { b with
            baseline := { s.baseline with table := table, counter := 0, pass := 2 } }))) ∧
      (slot = 23 → s.baseline.pass = 2 → s.seek.pass = none → s.seek.turn = .A →
        exec (.listenEnd periods fall) s = .next
          (submit (some { ch := .A, ask := .seekX 0 })
            (grant (fallFirst fall { b with
              mode := .active
              chanA := { s.chanA with state := .seek }
              chanB := if s.settings.enableB then { s.chanB with state := .seek } else s.chanB
              dormant := some (b.now + msec 10000)
              seek := { s.seek with pass := some { ch := .A, stage := .x 0 }, turn := .B }
              baseline :=
                { table := table, counter := 0, owed := 0, pass := 2, sweeping := false
                  timer := some (b.now + msec 8) } })))) ∧
      table.length = 320 ∧
      ∀ f n, f < 4 → n < 80 → ∃ old new, s.baseline.table[f * 80 + n]? = some old ∧ table[f * 80 + n]? = some new ∧
        ((∃ j p, f = slot / 6 ∧ slotPath slot n = some j ∧ b.engine.paths[j]? = some p ∧ p.clipped = false ∧
            deadLoop s.settings n = false ∧
            new =
              if s.baseline.pass = 1 then
                if old.pass1 then old
                else { old with value := magnitude p, refreshed := some b.now, pass1 := true }
              else if old.pass2 then old
              else
                { old with
                  value := if old.pass1 then (old.value + magnitude p) / 2 else magnitude p
                  refreshed := some b.now, pass2 := true }) ∨
          (new = old ∧
            (f ≠ slot / 6 ∨ slotPath slot n = none ∨ deadLoop s.settings n = true ∨
              ∃ j p, slotPath slot n = some j ∧ b.engine.paths[j]? = some p ∧ p.clipped = true)))

/-! ### Timers -/

/-- REFRESH_TIMER_EXPIRY raises the pending count by 1 up to 8 and goes on with 8 ms, and a refresh that stands is granted to an idle engine (R32, R33, R45). DORMANT_TIMER_EXPIRY makes the tile DORMANT and advances an odd refresh counter to the next even slot (R48, R94). -/
def Obligations.TileTimersExpire : Prop :=
  ∀ (s : State) (t0 : Nat), s.inReset = false →
    (s.baseline.timer = some t0 →
      exec .refreshTimerExpiry s = .next
        (grant { s with
          now := max s.now t0
          baseline := { s.baseline with timer := some (t0 + msec 8), owed := max s.baseline.owed (min 8 (s.baseline.owed + 1)) } })) ∧
    (s.dormant = some t0 →
      exec .dormantTimerExpiry s = .next
        { s with
          now := max s.now t0
          mode := .dormant
          dormant := none
          baseline := { s.baseline with
            counter :=
              if s.baseline.counter % 2 = 1 then (s.baseline.counter + 1) % 24 else s.baseline.counter } })

/-- SEEK_TIMER_EXPIRY and BACKOFF_TIMER_EXPIRY stop their timer and begin a pass for the channel of the turn if it is enabled and in SEEK, otherwise for the other; the turn passes on and the first X group is asked for (R96, R97). With no enabled channel in SEEK no pass begins. -/
def Obligations.SeekTimersBeginAPass : Prop :=
  ∀ (s : State) (t0 : Nat), s.inReset = false → s.seek.pass = none →
    let begun := fun (seek : Seek) (t : Host.Outcome State Fault Refusal) =>
      (∀ c, s.seeks c = true → (c = s.seek.turn ∨ s.seeks s.seek.turn = false) →
        t = .next (submit (some { ch := c, ask := .seekX 0 })
          { s with
            now := max s.now t0
            seek := { seek with pass := some { ch := c, stage := .x 0 }, turn := otherChan c } })) ∧
      ((∀ c, s.seeks c = false) → t = .next { s with now := max s.now t0, seek := seek })
    (s.seek.timer = some t0 → begun { s.seek with timer := none } (exec .seekTimerExpiry s)) ∧
    (s.seek.backoff = some t0 → begun { s.seek with backoff := none } (exec .backoffTimerExpiry s))

/-- CLAIM_TIMER_EXPIRY decides the claim (R104, R105): with no other sighting, or the own one stronger, the channel is held at level 3 with the find's strength and coarse loops, report interval and first cycle 0 with its NOTICE started, its arming record gone (R36, R57, R74, R111, R112, R125); otherwise it defers for 5 ms (R107). A first cycle waits while an abandoned cycle's sequence runs (R112). SIGHTING_RETURN decides in the same way at its own moment: any own SIGHTING that returns for the channel, whatever else it carries and whatever its length (R144; that an older one decides too is the model's choice, log 9). In every state, one for a channel without a claim, and one whose channel octet names no channel (log 9), is passed over. -/
def Obligations.ClaimIsDecided : Prop :=
  (∀ (s : State) (c : Chan) (cl : Claim), s.inReset = false → (s.chan c).state = .claim cl →
    let own := s.straps.row.val * 8 + s.straps.col.val
    let won := cl.best = none ∨
      ∃ st origin, cl.best = some (st, origin) ∧ (st < cl.strength ∨ (st = cl.strength ∧ own < origin))
    let b := { s with now := max s.now cl.timer, dormant := none }
    let pen : Pen :=
      { peakX := cl.coarseX, peakY := cl.coarseY, down := false, weakCount := 0, history := [], writeIndex := 0
        lastX := cl.coarseX * 256 + 128, lastY := cl.coarseY * 256 + 128, lastPressure := 0, lastTiltX := 0
        lastTiltY := 0 }
    let cycles : CycleState :=
      { timer := b.now + usec (250 * s.settings.intervalCode), number := none, firstNumber := 0, byTake := false
        current := none, overrun := 0, spacing := 0 }
    let held := b.setChan c
      { s.chan c with
        state := .hold, level := 3, lastStrength := cl.strength, pen := some pen, record := none
        cycles := some cycles, arming := none }
    (¬ won → exec (.claimTimerExpiry c) s = .next (b.entered c (.defer (b.now + msec 5)))) ∧
    (won → (s.chan c).abandoned = none → exec (.claimTimerExpiry c) s = .next (held.noticed c 0 cycles pen false)) ∧
    (won → (s.chan c).abandoned ≠ none → exec (.claimTimerExpiry c) s = .next held) ∧
    (∀ dt rest, s.link.up = true → 3 ≤ rest.length → rest.length ≤ 22 →
      crcGood (kindByte .sighting :: byteOf own :: rest) = true →
      octetAt (kindByte .sighting :: byteOf own :: rest) 3 = chanIndex c →
      ∃ t, exec (.sightingReturn dt rest) s = .next t ∧
        exec (.claimTimerExpiry c)
          ((s.heardLink dt).setChan c { s.chan c with state := .claim { cl with timer := s.now + dt } }) = .next t)) ∧
  ∀ (s : State) (dt : Nat) (rest : List Byte), s.inReset = false → s.link.up = true → 3 ≤ rest.length →
    rest.length ≤ 22 → let o := kindByte .sighting :: byteOf (ownIndex s.straps) :: rest
    crcGood o = true → (∀ d k, octetAt o 3 = chanIndex d → (s.chan d).state ≠ .claim k) →
    exec (.sightingReturn dt rest) s = .next (s.heardLink dt)

/-- REPORT_TIMER_EXPIRY goes on with one interval (R111): in HOLD with no cycle in progress the next cycle begins, its number one up modulo 65536 (R112, R113); in HOLD with a cycle in progress, the overrun count rises, up to 255, and so it does while an abandoned cycle delays the first one (the model's inference, log 15); in YIELD nothing more. -/
def Obligations.ReportTimerStartsACycle : Prop :=
  ∀ (s : State) (c : Chan) (cs : CycleState), s.inReset = false → (s.chan c).cycles = some cs →
    let next := { cs with timer := cs.timer + usec (250 * s.settings.intervalCode) }
    let b := { s with now := max s.now cs.timer }.setChan c { s.chan c with cycles := some next }
    ((s.chan c).state = .hold → cs.current = none → (s.chan c).abandoned = none → ∀ n pen, cs.number = some n →
      (s.chan c).pen = some pen →
      exec (.reportTimerExpiry c) s = .next (b.noticed c ((n + 1) % 65536) next pen false)) ∧
    ((s.chan c).state = .hold → cs.current ≠ none ∨ (s.chan c).abandoned ≠ none →
      exec (.reportTimerExpiry c) s = .next
        (b.setChan c { s.chan c with cycles := some { next with overrun := min 255 (cs.overrun + 1) } })) ∧
    (∀ t0, (s.chan c).state = .yield t0 → exec (.reportTimerExpiry c) s = .next b)

/-- BARRIER_TIMER_EXPIRY ends NOTICE WAIT with the ring fault mark and NOTICE_RETURN of the cycle's own number without it (R114): TIP begins and asks for the tip sequence with the cycle's windows (R115). A NOTICE that returns for another number or outside NOTICE WAIT is passed over, and in every state one for a channel with no cycle in progress but, at most, an abandoned one (R120, R144, R154), and one whose channel octet names no channel (log 9). Its channel and number are read at their places whatever the frame's length (R144, log 9). -/
def Obligations.BarrierIsReached : Prop :=
  (∀ (s : State) (c : Chan) (cs : CycleState) (cy : Cycle) (rec : CycleRecord), s.inReset = false →
    (s.chan c).cycles = some cs → cs.current = some cy → (s.chan c).record = some rec →
    let tip := fun (fault : Bool) (b : State) => submit (some { ch := c, ask := .tip rec.windowX rec.windowY })
      (b.setChan c
        { s.chan c with
          cycles := some { cs with current := some { cy with phase := .tip, barrier := none, ringFault := fault } } })
    (∀ t0, cy.barrier = some t0 →
      exec (.barrierTimerExpiry c) s = .next (tip true { s with now := max s.now t0 })) ∧
    ∀ dt rest n, s.link.up = true → 3 ≤ rest.length → rest.length ≤ 22 →
      crcGood (kindByte .notice :: byteOf (ownIndex s.straps) :: rest) = true →
      octetAt (kindByte .notice :: byteOf (ownIndex s.straps) :: rest) 3 = chanIndex c →
      word2 (kindByte .notice :: byteOf (ownIndex s.straps) :: rest) 4 = n →
      (cy.phase = .noticeWait → cs.number = some n →
        exec (.noticeReturn dt rest) s = .next (tip false (s.heardLink dt))) ∧
      (cy.phase ≠ .noticeWait ∨ cs.number ≠ some n →
        exec (.noticeReturn dt rest) s = .next (s.heardLink dt))) ∧
  ∀ (s : State) (dt : Nat) (rest : List Byte), s.inReset = false → s.link.up = true → 3 ≤ rest.length →
    rest.length ≤ 22 → let o := kindByte .notice :: byteOf (ownIndex s.straps) :: rest
    crcGood o = true →
    (∀ d cs, octetAt o 3 = chanIndex d → (s.chan d).cycles = some cs → cs.current = none) →
    exec (.noticeReturn dt rest) s = .next (s.heardLink dt)

/-- YIELD_TIMER_EXPIRY returns the channel to HOLD with the yield spacing count at 8 and every record kept (R126, R129). DEFER_TIMER_EXPIRY and VIEW_TIMER_EXPIRY bring it to SEEK: the holder view is gone, the dormant timer starts with 10 s when every enabled channel is in SEEK, and a pass begins at once when neither seek timer runs and no pass is in progress (R93, R96, R108, R133, R135). LOST sends a channel in DEFER, and one in STANDBY whose holder sent it, to SEEK in the same way, and leaves any other alone (R108, R138). -/
def Obligations.WaitingChannelsMoveOn : Prop :=
  ∀ (s : State) (c : Chan) (t0 : Nat), s.inReset = false →
    ((s.chan c).state = .yield t0 → ∀ cs, (s.chan c).cycles = some cs →
      exec (.yieldTimerExpiry c) s = .next
        ({ s with now := max s.now t0 }.setChan c
          { s.chan c with state := .hold, cycles := some { cs with spacing := 8 } })) ∧
    (∀ i : Instr, ((s.chan c).state = .defer t0 ∧ i = .deferTimerExpiry c ∨
        (∃ h, (s.chan c).state = .standby h t0) ∧ i = .viewTimerExpiry c) →
      let b := ({ s with now := max s.now t0 }.setChan c { s.chan c with state := .seek }).timed
      (s.seek.timer ≠ none ∨ s.seek.backoff ≠ none ∨ s.seek.pass ≠ none → exec i s = .next b) ∧
      (s.seek.timer = none → s.seek.backoff = none → s.seek.pass = none →
        ∀ d, b.seeks d = true → (d = s.seek.turn ∨ b.seeks s.seek.turn = false) →
        exec i s = .next
          (submit (some { ch := d, ask := .seekX 0 })
            { b with seek := { s.seek with pass := some { ch := d, stage := .x 0 }, turn := otherChan d } }))) ∧
    ∀ dt o n, Arrives .lost o (.lost c n) s →
      let b := (s.copied dt o).woken
      ((s.chan c).state = .defer t0 ∨ (s.chan c).state = .standby (originOf o) t0 →
        ∃ t, exec (.lost dt (o.drop 1)) s = .next t ∧
          exec (.deferTimerExpiry c) (b.setChan c { s.chan c with state := .defer b.now }) = .next t) ∧
      ((∀ t, (s.chan c).state ≠ .defer t) → (∀ t, (s.chan c).state ≠ .standby (originOf o) t) →
        exec (.lost dt (o.drop 1)) s = .next b.timed)

/-- AGE_TIMER_EXPIRY ends the arming record (R121, R124): with the tip alone captured a BORDER marked collar absent is queued, its collar places 0; otherwise nothing is sent. -/
def Obligations.ArmingRecordAgesOut : Prop :=
  ∀ (s : State) (c : Chan) (a : Arming), s.inReset = false → (s.chan c).arming = some a →
    let gone := { s with now := max s.now a.timer }.setChan c { s.chan c with arming := none }
    (a.tip = none ∨ a.collar ≠ none → exec (.ageTimerExpiry c) s = .next gone) ∧
    ∀ v, a.tip = some v → a.collar = none →
      let place := fun n : Nat => min ((v.map Prod.fst).getD n 0 / 4) 65535
      exec (.ageTimerExpiry c) s = .next
        { gone with
          link := s.link.push (.border
            { ch := c, holder := a.holder, cycle := a.cycle, axis := a.axis, count := a.count, collarAbsent := true
              tipClipped := v.any Prod.snd, collarClipped := false, first := a.first
              tip := [place 0, place 1, place 2], collar := [0, 0, 0] }) }

/-! ### The line -/

/-- LINK_IN_UP and LINK_IN_DOWN: while link-in is DOWN consecutive valid symbols are counted, an invalid one sets the count to 0, and at 64 link-in is UP with no frame in reception; each valid symbol restarts the 10 µs silence timer, whose expiry makes link-in DOWN and discards a frame in reception (R141, log 7). -/
def Obligations.LinkInCountsSymbols : Prop :=
  ∀ (dt : Nat) (s : State), s.inReset = false →
    (∀ groups : List Pattern, s.link.up = false → groups ≠ [] → (∀ g ∈ groups, classify g ≠ .invalid) →
      (s.link.count + groups.length < 64 →
        exec (.linkInUp dt groups) s = .next
          { s with
            now := s.now + dt
            link := { s.link with
              silence := some (s.now + dt + usec 10), count := s.link.count + groups.length } }) ∧
      (s.link.count + groups.length = 64 →
        exec (.linkInUp dt groups) s = .next
          { s with
            now := s.now + dt
            link := { s.link with
              silence := some (s.now + dt + usec 10), count := 64, up := true, reception := none } })) ∧
    (∀ g, s.link.up = false → classify g = .invalid →
      exec (.linkInUp dt [g]) s = .next { s with now := s.now + dt, link := { s.link with count := 0 } }) ∧
    (∀ g groups t, s.link.up = false → exec (.linkInUp dt [g]) s = .next t →
      exec (.linkInUp dt (g :: groups)) s = exec (.linkInUp 0 groups) t) ∧
    ∀ t0, s.link.silence = some t0 →
      exec (.linkInDown dt) s = .next
        { s with
          now := max (s.now + dt) t0
          link := { s.link with
            silence := none, up := false, reception := none, count := if s.link.up then 0 else s.link.count } }

/-- Frames given by their octets reach the link's checks whole when link-in is UP and they hold 5 to 24 octets, and are dropped otherwise (R140, R142, R144, R155); FRAME_RECEPTION_DISCARD drops a frame in reception at an idle or invalid symbol, an end symbol before 5 octets, or a 25th octet, and begins anew at a start symbol (R142). -/
def Obligations.FramesAreGathered : Prop :=
  ∀ (dt : Nat) (s : State), s.inReset = false → s.link.up = true →
    let arrives := fun (o : List Byte) (t : Host.Outcome State Fault Refusal) =>
      t = .next (if 5 ≤ o.length ∧ o.length ≤ 24 then receiveFrame o (s.heardLink dt) else s.heardLink dt)
    (∀ k body, arrives (kindByte k :: body) (exec (k.command dt body) s)) ∧
    (∀ rest, arrives (kindByte .notice :: byteOf (ownIndex s.straps) :: rest) (exec (.noticeReturn dt rest) s)) ∧
    (∀ rest, arrives (kindByte .sighting :: byteOf (ownIndex s.straps) :: rest) (exec (.sightingReturn dt rest) s)) ∧
    (∀ k rest, arrives (k :: byteOf (ownIndex s.straps) :: rest) (exec (.ownFrameRemoved dt k rest) s)) ∧
    (∀ o, arrives o (exec (.unknownKindFrame dt o) s)) ∧
    ∀ g o, s.link.reception = some o →
      (classify g = .idle ∨ (classify g = .stop ∧ o.length < 5) ∨ (o.length = 24 ∧ ∃ b, classify g = .data b) →
        exec (.frameReceptionDiscard dt [g]) s = .next (s.heardLink dt)) ∧
      (classify g = .invalid →
        exec (.frameReceptionDiscard dt [g]) s = .next
          { s with now := s.now + dt, link := { s.link with reception := none } }) ∧
      (classify g = .start →
        exec (.frameReceptionDiscard dt [g]) s = .next
          { s.heardLink dt with link := { (s.heardLink dt).link with reception := some [] } })

/-- The link's checks of a wholly received frame (R143, R144, R145, R146, R148): a bad CRC, a hop count of 31 or more and a full insertion buffer drop it; one of the tile's own origin leaves the ring, whatever its length, and the return of every kind but NOTICE and SIGHTING changes nothing (R144; what a return is read by, log 9); any other joins the insertion buffer, and of those the tracker passes over unknown kinds and wrong lengths by the table of R155, the frames R156 calls not well formed, everything in OUTSIDE, all but RESTART in START, and frames of a channel that is not enabled (R14, R95). The CRC has polynomial 0x1021 and start value 0xFFFF, the bits of an octet most significant first. -/
def Obligations.FramesPassTheLinksChecks : Prop :=
  ∀ (o : List Byte) (s : State),
    let k := octetAt o 0
    let kinds := [(17, 13, Kind.sighting), (18, 12, .notice), (19, 24, .border), (20, 24, .report), (21, 18, .yield),
      (22, 9, .take), (23, 8, .lost), (31, 5, .restart)]
    let known := ∃ kind, (k, o.length, kind) ∈ kinds
    let channel := if k = 20 then octetAt o 3 / 16 else octetAt o 3
    let malformed := k ≠ 31 ∧
      (30 ≤ originOf o ∨ 6 ≤ originOf o % 8 ∨ 2 ≤ channel ∨
        ((k = 19 ∨ k = 21 ∨ k = 22) ∧ 32 ≤ octetAt o 4) ∨
        (k = 18 ∧ (octetAt o 9 / 64 = 3 ∨ octetAt o 9 / 4 % 4 = 3)) ∨
        (k = 19 ∧ octetAt o 7 / 16 % 4 = 0) ∨
        (k = 20 ∧ 3 < octetAt o 3 % 16) ∨ (k = 21 ∧ 3 < octetAt o 13 % 16))
    (crcGood o = true ↔ o.drop (o.length - 2) = bytes2 (crcOf (o.take (o.length - 2)))) ∧
    (crcGood o = false → receiveFrame o s = s) ∧
    (crcGood o = true → originOf o = ownIndex s.straps →
      octetAt o 0 ≠ 17 → octetAt o 0 ≠ 18 → receiveFrame o s = s) ∧
    (originOf o ≠ ownIndex s.straps → 31 ≤ hopOf o ∨ 2 ≤ s.link.buffer.length → receiveFrame o s = s) ∧
    (crcGood o = true → originOf o ≠ ownIndex s.straps → hopOf o < 31 → s.link.buffer.length < 2 →
      s.mode = .outside ∨ ¬ known ∨ malformed ∨
        (k ≠ 31 ∧ (s.mode = .start ∨ (channel = 1 ∧ s.settings.enableB = false))) →
      receiveFrame o s = { s with link := { s.link with buffer := s.link.buffer ++ [o] } }) ∧
    (crcOf [] = 65535 ∧ ∀ (p : List Byte) (v : Byte),
      crcOf (p ++ [v]) = (List.range 8).foldl
        (fun c _ => if c < 32768 then 2 * c else (2 * c % 65536) ^^^ 4129) (crcOf p ^^^ (v.toNat * 256))) ∧
    (∀ kind, frameKind o = some kind ↔ (k, o.length, kind) ∈ kinds) ∧
    ∀ kind, frameKind o = some kind → (readCopy kind o = none ↔ malformed)

/-! ### Frames of other tiles -/

/-- SIGHTING (R102, R104, R107, R128): a channel in SEEK gives up its pass and defers for 5 ms, one in CLAIM remembers the strongest other sighting, the lower origin among equals, and in any other state nothing happens but that a DORMANT tile wakes and the dormant timer is set afresh (R93, R94, log 21). -/
def Obligations.SightingIsCompared : Prop :=
  ∀ (dt : Nat) (o : List Byte) (c : Chan) (st x y : Nat) (s : State), Arrives .sighting o (.sighting c st x y) s →
    let b := (s.copied dt o).woken
    ((s.chan c).state = .seek →
      exec (.sighting dt (o.drop 1)) s = .next (b.moved c (.defer (b.now + msec 5)))) ∧
    (∀ cl, (s.chan c).state = .claim cl →
      let better := ∀ v, cl.best = some v → v.1 < st ∨ (v.1 = st ∧ originOf o < v.2)
      (better →
        exec (.sighting dt (o.drop 1)) s = .next
          (b.entered c (.claim { cl with best := some (st, originOf o) }))) ∧
      (¬ better → exec (.sighting dt (o.drop 1)) s = .next (b.entered c (.claim cl)))) ∧
    ((s.chan c).state ≠ .seek → (∀ cl, (s.chan c).state ≠ .claim cl) →
      exec (.sighting dt (o.drop 1)) s = .next b.timed)

/-- REPORT and TAKE of another holder (R102, R106, R108, R132, R134, R136): a channel that holds no pen here goes to STANDBY with the frame's origin as holder and 50 ms, and a refreshed view; in HOLD or YIELD the lower index keeps the channel, while the higher abandons its cycle, drops its records and stands by; a TAKE that names this tile ends its hold whatever the index. -/
def Obligations.HolderIsHeard : Prop :=
  ∀ (dt : Nat) (k : Kind) (o : List Byte) (f : Frame) (c : Chan) (s : State), Arrives k o f s →
    let own := ownIndex s.straps
    let b := (s.copied dt o).woken
    let view := ChanState.standby (originOf o) (b.now + msec 50)
    let heard := (∃ r, f = .report r ∧ r.ch = c) ∨ ∃ releaser n, f = .take c releaser n ∧ releaser ≠ own
    (heard → (s.chan c).state.unheld → exec (k.command dt (o.drop 1)) s = .next (b.moved c view)) ∧
    (heard → s.holding c = true →
      exec (k.command dt (o.drop 1)) s = .next (if own < originOf o then b.timed else b.released c view)) ∧
    (∀ n, f = .take c own n → s.holding c = true →
      exec (k.command dt (o.drop 1)) s = .next (b.released c view)) ∧
    ∀ n, f = .take c own n → (s.chan c).state.unheld → exec (k.command dt (o.drop 1)) s = .next (b.moved c view)

/-- NOTICE has the effect of any frame of another holder and then, unless the tile still holds the channel, replaces the arming record: by one for the want that names this tile, aged 1 ms, or by none (R121, R134, R136). A want names the tile one column or row beyond the holder on the want's side. -/
def Obligations.NoticeArmsTheNeighbour : Prop :=
  ∀ (dt : Nat) (o : List Byte) (c : Chan) (n st : Nat) (wx wy : WantField) (s : State),
    Arrives .notice o (.notice c n st wx wy) s →
    let own := ownIndex s.straps
    let oc := originOf o % 8
    let orow := originOf o / 8
    let col := s.straps.col.val
    let row := s.straps.row.val
    let b := (s.copied dt o).woken
    let view := ChanState.standby (originOf o) (b.now + msec 50)
    let armed := fun (a : Option Arming) (t : State) => t.setChan c { t.chan c with arming := a }
    let answer := fun a : Option Arming =>
      ((s.chan c).state.unheld → exec (.notice dt (o.drop 1)) s = .next (armed a (b.moved c view))) ∧
      (s.holding c = true → own < originOf o → exec (.notice dt (o.drop 1)) s = .next b.timed) ∧
      (s.holding c = true → originOf o < own →
        exec (.notice dt (o.drop 1)) s = .next (armed a (b.released c view)))
    let record := fun (ax : Axis) (side : Side) (first count : Nat) =>
      answer (some
        { holder := originOf o, cycle := n, axis := ax, side := side, first := first, count := count, tip := none
          collar := none, timer := b.now + msec 1, capturing := false })
    (∀ w, 0 < w → wx = ⟨some .low, w⟩ → col + 1 = oc → row = orow → record .X .high (oc * 48 - w) w) ∧
    (∀ w, 0 < w → wx = ⟨some .high, w⟩ → col = oc + 1 → row = orow → record .X .low (oc * 48 + 48) w) ∧
    (∀ w, 0 < w → wy = ⟨some .low, w⟩ → col = oc → row + 1 = orow → record .Y .high (orow * 32 - w) w) ∧
    (∀ w, 0 < w → wy = ⟨some .high, w⟩ → col = oc → row = orow + 1 → record .Y .low (orow * 32 + 32) w) ∧
    ((wx.count = 0 ∨ wx.side = none ∨ row ≠ orow ∨ (wx.side = some .low ∧ col + 1 ≠ oc) ∨
        (wx.side = some .high ∧ col ≠ oc + 1)) →
      (wy.count = 0 ∨ wy.side = none ∨ col ≠ oc ∨ (wy.side = some .low ∧ row + 1 ≠ orow) ∨
        (wy.side = some .high ∧ row ≠ orow + 1)) → answer none)

/-- YIELD that names this tile, on a channel it does not hold (R130, R131): the channel is held with the YIELD's level, strength 0, its place, contact state and pressure, the history ring seeded when the tip is up (R74); TAKE names the tile that yielded, and the first cycle, one above the YIELD's and marked handover, begins with its NOTICE (R112, R119), or waits while an abandoned cycle's sequence runs. Any other YIELD leaves the channel alone. -/
def Obligations.YieldIsTaken : Prop :=
  ∀ (dt : Nat) (o : List Byte) (y : YieldFields) (s : State), Arrives .yield o (.yield y) s →
    let c := y.ch
    let b := (s.copied dt o).woken
    let x0 := min y.x (s.settings.columns * 12288 - 1)
    let y0 := min y.y (s.settings.rows * 8192 - 1)
    let pen : Pen :=
      { peakX := x0 / 256, peakY := y0 / 256, down := y.contact, weakCount := 0
        history := if y.contact then [] else [(x0, y0)]
        writeIndex := if y.contact then 0 else 1 % s.settings.historyLength
        lastX := x0, lastY := y0, lastPressure := if y.contact then min y.pressure 4095 else 0
        lastTiltX := 0, lastTiltY := 0 }
    let first := (y.cycle + 1) % 65536
    let cycles : CycleState :=
      { timer := b.now + usec (250 * s.settings.intervalCode), number := none, firstNumber := first, byTake := true
        current := none, overrun := 0, spacing := 0 }
    let entered := b.moved c .hold
    let held := { entered with link := entered.link.push (.take c (originOf o) y.cycle) }.setChan c
      { s.chan c with
        state := .hold, level := y.level, lastStrength := 0, pen := some pen, record := none
        cycles := some cycles, arming := none }
    (y.target = ownIndex s.straps → (s.chan c).state.unheld → (s.chan c).abandoned = none →
      0 < s.settings.columns → 0 < s.settings.rows →
      exec (.yield dt (o.drop 1)) s = .next (held.noticed c first cycles pen true)) ∧
    (y.target = ownIndex s.straps → (s.chan c).state.unheld → (s.chan c).abandoned ≠ none →
      0 < s.settings.columns → 0 < s.settings.rows → exec (.yield dt (o.drop 1)) s = .next held) ∧
    (y.target ≠ ownIndex s.straps ∨ s.holding c = true → exec (.yield dt (o.drop 1)) s = .next b.timed)

/-- BORDER (R63, R117, R118): accepted when its channel is in HOLD with a cycle of its number in progress and it names this tile as holder; it is merged into the cycle record (when it comes from the supplier of its axis's want: each named wanted loop that is still free takes the value times 4, tip and collar each, no collar entries when the collar is absent, and then every border entry parted from the own run by a loop without one is removed; R63, R64), and when it is the expected frame of its axis it is awaited no more; the last one awaited in BORDER WAIT ends the wait. Any other is passed over. -/
def Obligations.BorderIsAccepted : Prop :=
  ∀ (dt : Nat) (o : List Byte) (x : Border) (s : State), Arrives .border o (.border x) s →
    let c := x.ch
    let b := s.copied dt o
    (∀ cs cy rec, (s.chan c).state = .hold → x.holder = ownIndex s.straps → (s.chan c).cycles = some cs →
      cs.current = some cy → cs.number = some x.cycle → (s.chan c).record = some rec →
      let merged := { s.chan c with record := some (mergeBorder s.straps (originOf o) x rec) }
      let got : Cycle :=
        { cy with gotX := cy.gotX || x.axis == .X, gotY := cy.gotY || x.axis == .Y }
      let taken := b.setChan c { merged with cycles := some { cs with current := some got } }
      let expected := ∃ w, rec.want x.axis = some w ∧ w.supplier = originOf o ∧
        (x.axis = .X → cy.gotX = false) ∧ (x.axis = .Y → cy.gotY = false)
      let last := (rec.wantX = none ∨ got.gotX = true) ∧ (rec.wantY = none ∨ got.gotY = true)
      (¬ expected → exec (.border dt (o.drop 1)) s = .next (b.setChan c merged)) ∧
      (expected → cy.phase ≠ .borderWait ∨ ¬ last → exec (.border dt (o.drop 1)) s = .next taken) ∧
      (expected → cy.phase = .borderWait → last →
        exec (.border dt (o.drop 1)) s = .next (submit (endBorderWait c taken).2 (endBorderWait c taken).1))) ∧
    ((s.chan c).state ≠ .hold ∨ x.holder ≠ ownIndex s.straps ∨ (s.chan c).current = none ∨
        (∀ cs, (s.chan c).cycles = some cs → cs.number ≠ some x.cycle) →
      exec (.border dt (o.drop 1)) s = .next b) ∧
    ∀ (rec : CycleRecord) (k : Coil),
      let merged := mergeBorder s.straps (originOf o) x rec
      let es := rec.profile k x.axis
      let new := merged.profile k x.axis
      let low := min (loopAt s.straps x.axis (rec.window x.axis)) (loopAt s.straps x.axis (rec.window x.axis + 7))
      merged = { rec with
        tipX := merged.tipX, tipY := merged.tipY, collarX := merged.collarX, collarY := merged.collarY } ∧
      (∀ ax, ax ≠ x.axis → merged.profile k ax = rec.profile k ax) ∧
      ((∀ w, rec.want x.axis = some w → w.supplier ≠ originOf o) → merged = rec) ∧
      ∀ w, rec.want x.axis = some w → w.supplier = originOf o → rec.window x.axis + 8 ≤ axisLoops x.axis →
        es.Pairwise (fun a b => a.loop < b.loop) →
        (∀ e ∈ es, e.source ≠ .border → low ≤ e.loop ∧ e.loop ≤ low + 7) →
        let first := if w.side = Side.low then ownLo s.straps x.axis - w.count else ownHi s.straps x.axis + 1
        let values := if k = .tip then x.tip else if x.collarAbsent then [] else x.collar
        let clipped := if k = .tip then x.tipClipped else x.collarClipped
        let joined := fun e : Entry => e ∈ es ∨ ∃ i v, i < x.count ∧ values[i]? = some v ∧
          e = { loop := x.first + i, amp := 4 * v, source := .border, clipped := clipped } ∧
          first ≤ e.loop ∧ e.loop < first + w.count ∧ ∀ d ∈ es, d.loop ≠ e.loop
        new.Pairwise (fun a b => a.loop < b.loop) ∧
        ∀ e, e ∈ new ↔ joined e ∧ (e.source = .border →
          ∀ m, (e.loop < m ∧ m < low) ∨ (low + 7 < m ∧ m < e.loop) → ∃ d, joined d ∧ d.source = .border ∧ d.loop = m)

/-- RESTART is forwarded and restarts the tile (R167): the sequence in progress is abandoned and the arbiter's queue emptied (R39); every record, timer and arming of both channels goes, level 3 and strength 0 (R36, R72, R120, R125, R139); the own queue is emptied uncounted while drop count and the rest of the link stay (R154); LFSR, straps, settings, table and refresh timer stay (R54, R101). In ACTIVE and DORMANT the tile is then ACTIVE with pending count 0, every enabled channel in SEEK, the dormant timer at 10 s and a pass of channel A begun; in START the double sweep goes on. -/
def Obligations.RestartStartsAfresh : Prop :=
  ∀ (dt : Nat) (o : List Byte) (s : State), s.inReset = false → s.link.up = true → s.link.buffer.length < 2 →
    crcGood o = true → frameKind o = some .restart → originOf o ≠ ownIndex s.straps → hopOf o < 31 →
    let b := s.copied dt o
    let cleared := fun (c : Chan) (st : ChanState) =>
      { ((b.released c st).chan c) with level := 3, lastStrength := 0, arming := none }
    let quiet : State :=
      { b with
        queue := []
        engine := { b.engine with
          running := b.engine.running.map fun r : Running => { r with seq := { r.seq with abandoned := true } } }
        chanA := cleared .A .absent
        chanB := cleared .B .absent
        seek := { b.seek with pass := none, timer := none, backoff := none, turn := .A }
        dormant := none
        link := { b.link with own := [] } }
    (s.mode = .start → exec (.restart dt (o.drop 1)) s = .next quiet) ∧
    (s.mode = .active ∨ s.mode = .dormant →
      exec (.restart dt (o.drop 1)) s = .next
        (submit (some { ch := .A, ask := .seekX 0 })
          { quiet with
            mode := .active
            chanA := cleared .A .seek
            chanB := if s.settings.enableB then cleared .B .seek else cleared .B .absent
            baseline := { b.baseline with owed := 0 }
            dormant := some (b.now + msec 10000)
            seek := { b.seek with
              pass := some { ch := .A, stage := .x 0 }, timer := none, backoff := none, turn := .B } })) ∧
    (s.mode = .outside → exec (.restart dt (o.drop 1)) s = .next b)

/-! ### Link-out -/

/-- FORWARD_FRAME_SEND sends the oldest frame of the insertion buffer with its hop count raised by 1 and its CRC made anew, every other octet as received (R147, R148); it begins at the first symbol time free of the frame before and its idle symbol that is not before the clock (R140, R149, log 18), and the running disparity is carried over the idle symbols before it, its own symbols and the idle symbol after it (R140). With an empty buffer nothing is sent. -/
def Obligations.ForwardedFrameIsSent : Prop :=
  ∀ (dt : Nat) (s : State), s.inReset = false →
    (s.link.buffer = [] → exec (.forwardFrameSend dt) s = .next { s with now := s.now + dt }) ∧
    ∀ o rest, s.link.buffer = o :: rest → 5 ≤ o.length → hopOf o < 255 →
      ∃ o' k,
        let start := s.link.freeAt + symbolTime * k
        let d := disparityOver s.link.disparity (List.replicate k .idle)
        exec (.forwardFrameSend dt) s = .next
          { s with
            now := start
            link := { s.link with
              buffer := rest, sent := some { octets := o', own := false, start := start, disparity := d }
              disparity := disparityOver d (frameSymbols o' ++ [.idle])
              freeAt := start + symbolTime * (o.length + 3) } } ∧
        o'.length = o.length ∧ crcGood o' = true ∧ hopOf o' = hopOf o + 1 ∧
        (∀ k, k + 2 < o.length → k ≠ 2 → o'[k]? = o[k]?) ∧
        s.now + dt ≤ start ∧ (k = 0 ∨ start < s.now + dt + symbolTime)

/-- OWN_FRAME_SEND, when no frame waits to be forwarded, sends the oldest own frame of the highest class present with hop count 0 (R149, R150); a REPORT takes the drop count with it, which becomes 0 (R152). It begins at the first symbol time free of the frame before and its idle symbol that is not before the clock (R140, R149, log 18), and the running disparity is carried over the idle symbols before it, its own symbols and the idle symbol after it (R140). With an empty own queue, or while a frame waits to be forwarded, no own frame is sent. -/
def Obligations.OwnFrameIsSent : Prop :=
  ∀ (dt : Nat) (s : State), s.inReset = false →
    (s.link.buffer ≠ [] ∨ s.link.own = [] → exec (.ownFrameSend dt) s = .next { s with now := s.now + dt }) ∧
    ∀ before f after, s.link.buffer = [] → s.link.own = before ++ f :: after →
      (∀ x ∈ before, kindClass x.kind < kindClass f.kind) → (∀ x ∈ after, kindClass x.kind ≤ kindClass f.kind) →
      let sentFrame := match f with
        | .report r => Frame.report { r with drop := s.link.drop }
        | g => g
      let o' := sentFrame.encode (ownIndex s.straps) 0
      ∃ k,
        let start := s.link.freeAt + symbolTime * k
        let d := disparityOver s.link.disparity (List.replicate k .idle)
        exec (.ownFrameSend dt) s = .next
          { s with
            now := start
            link := { s.link with
              own := before ++ after, drop := if f.kind = .report then 0 else s.link.drop
              sent := some { octets := o', own := true, start := start, disparity := d }
              disparity := disparityOver d (frameSymbols o' ++ [.idle])
              freeAt := start + symbolTime * (o'.length + 3) } } ∧
        s.now + dt ≤ start ∧ (k = 0 ∨ start < s.now + dt + symbolTime)

/-- A frame queued while the own queue holds 8 discards one of the nine and is counted, up to 255: the oldest REPORT in the queue; a new REPORT when the queue holds none; otherwise the oldest of the lowest class present (R151, R152). Below 8 it joins the queue's end. -/
def Obligations.OverflowDiscardsTheLeast : Prop :=
  ∀ (f : Frame) (l : Link),
    (l.own.length < 8 → l.push f = { l with own := l.own ++ [f] }) ∧
    (8 ≤ l.own.length →
      (∀ before r after, l.own = before ++ .report r :: after → (∀ x ∈ before, x.kind ≠ .report) →
        l.push f = { l with own := before ++ after ++ [f], drop := min 255 (l.drop + 1) }) ∧
      ((∀ x ∈ l.own, x.kind ≠ .report) → f.kind = .report →
        l.push f = { l with drop := min 255 (l.drop + 1) }) ∧
      ((∀ x ∈ l.own, x.kind ≠ .report) → f.kind ≠ .report → ∀ before x after, l.own ++ [f] = before ++ x :: after →
        (∀ y ∈ before, kindClass x.kind < kindClass y.kind) → (∀ y ∈ after, kindClass x.kind ≤ kindClass y.kind) →
        l.push f = { l with own := before ++ after, drop := min 255 (l.drop + 1) }))

/-- The octets of every frame whose fields fit their places carry its kind, origin and hop count and a good CRC, have its kind's length, and are read back as that frame (R143, R155 to R160). -/
def Obligations.FrameRoundTrip : Prop :=
  ∀ (f : Frame) (origin hop : Nat), f.fits = true → origin < 256 → hop < 256 →
    let o := f.encode origin hop
    o.length = kindLength f.kind ∧ frameKind o = some f.kind ∧ originOf o = origin ∧ hopOf o = hop ∧
      crcGood o = true ∧ readFrame f.kind o = some f

/-- The line bits with which a frame is sent, from either running disparity, are received by another tile as that frame's octets: every symbol is recovered from its code group (R140, R142, log 6). -/
def Obligations.SentBitsAreReceivedAsOctets : Prop :=
  (∀ (positive : Bool) (x : Symbol), x ≠ .invalid → classify (codeGroup positive x) = x) ∧
  (∀ (positive : Bool) (x : Symbol), x ≠ .invalid →
    let n := ((lineBits (codeGroup positive x)).filter id).length
    nextDisparity positive x = (if n = 5 then positive else decide (5 < n)) ∧
      (n = 5 ∨ (positive = false ∧ n = 6) ∨ (positive = true ∧ n = 4))) ∧
  ∀ (f : Sent) (dt : Nat) (s : State), s.inReset = false →
    exec (.linkInUp dt f.groups) s = .next (receiveOctets f.octets { s with now := s.now + dt })

/-! ### Amplitudes, profiles and wants -/

/-- The magnitude of a path's reading (R40): its formula, free of sign and order; its largest value for sums of 8, 16 and 32 periods; formed by the baseline unit and by the profile builder alike. -/
def Obligations.MagnitudeOfAReading : Prop :=
  (∀ p : Machine.Path,
    magnitude p = max p.i.natAbs p.q.natAbs + 3 * min p.i.natAbs p.q.natAbs / 8 ∧
    magnitude { p with i := -p.i } = magnitude p ∧ magnitude { p with q := -p.q } = magnitude p ∧
    magnitude { p with i := p.q, q := p.i } = magnitude p ∧
    ∀ v ∈ [(32760, 45045), (65520, 90090), (131040, 180180)],
      (p.i.natAbs ≤ v.1 → p.q.natAbs ≤ v.1 → magnitude p ≤ v.2) ∧
      (p.i.natAbs = v.1 → p.q.natAbs = v.1 → magnitude p = v.2)) ∧
  ∀ (s : State) (j : Nat) (p : Machine.Path), s.engine.paths[j]? = some p →
    pathMagnitude s j = magnitude p ∧
    (∀ f w, j < 8 → deadLoop s.settings (w + j) = false →
      (ownEntry s .X f w j).amp = amplitude (magnitude p) (floorAt s f (w + j)).value (trimOf s.settings (w + j))) ∧
    ∀ f w n, j = 8 + n → deadLoop s.settings (48 + (w + n)) = false →
      (ownEntry s .Y f w n).amp =
        amplitude (magnitude p) (floorAt s f (48 + (w + n))).value (trimOf s.settings (48 + (w + n)))

/-- The profiles a tip or collar result forms, on both axes: each live loop of the window gives an own entry at its surface loop, mirrored or not, with the amplitude of its reading over its floor, trimmed, and its path's clipped mark (R7, R51, R55, R66); each dead loop gives a filled entry; they join the border entries already merged, in ascending surface order (R8, R64, R65), and the other coil's profiles stay. A collar result sets the collar-built mark; a tip result records the strongest own tip X path with its sums (R66). The stale mark is set when a live loop's floor was stale as it was read (R42, R69). -/
def Obligations.ResultsFormOwnEntries : Prop :=
  ∀ (s : State) (c : Chan) (k : Coil) (wx wy : Nat) (r : CycleRecord), wx ≤ 40 → wy ≤ 24 →
    let t := match k with
      | .tip => formTip s c wx wy r
      | .collar => formCollar s c wx wy r
    let f := 2 * chanIndex c + coilIndex k
    let w := fun ax : Axis => match ax with
      | .X => wx
      | .Y => wy
    let own := fun (ax : Axis) (n : Nat) => match readingOf s f ax (w ax) n with
      | some v => ({ loop := loopAt s.straps ax (w ax + n), amp := v.1, source := .own, clipped := v.2 } : Entry)
      | none => { loop := loopAt s.straps ax (w ax + n), amp := 0, source := .filled, clipped := false }
    let live := fun (ax : Axis) (n : Nat) => deadLoop s.settings (tileLoop ax (w ax + n)) = false
    t = { r with
      tipX := t.tipX, tipY := t.tipY, collarX := t.collarX, collarY := t.collarY, strongest := t.strongest
      stale := t.stale, collarBuilt := t.collarBuilt } ∧
    (∀ other ax, other ≠ k → t.profile other ax = r.profile other ax) ∧
    (∀ ax, (r.profile k ax).Pairwise (fun a b => a.loop < b.loop) →
      (∀ e ∈ r.profile k ax, e.source = .border ∧ ∀ n, n < 8 → e.loop ≠ loopAt s.straps ax (w ax + n)) →
      (t.profile k ax).Pairwise (fun a b => a.loop < b.loop) ∧
        ∀ e, e ∈ t.profile k ax ↔ e ∈ r.profile k ax ∨ ∃ n, n < 8 ∧ e = own ax n) ∧
    (t.collarBuilt = true ↔ r.collarBuilt = true ∨ k = .collar) ∧
    (t.stale = true ↔ r.stale = true ∨ ∃ ax n, n < 8 ∧ live ax n ∧
      ∀ m, (floorAt s f (tileLoop ax (w ax + n))).refreshed = some m → m + msec 400 < s.now) ∧
    (k = .collar → t.strongest = r.strongest) ∧
    (k = .tip → ∃ best, t.strongest = some best ∧
      ((∀ n, n < 8 → ¬ live .X n) → best = { loop := none, i := 0, q := 0 }) ∧
      ∀ n p, n < 8 → live .X n → s.engine.paths[n]? = some p →
        (∀ m, m < 8 → live .X m →
          (own .X m).amp < (own .X n).amp ∨
            ((own .X m).amp = (own .X n).amp ∧ (own .X n).loop ≤ (own .X m).loop)) →
        best = { loop := some (own .X n).loop, i := p.i, q := p.q })

/-- The windows and border wants of a cycle follow the last tip peaks (R9, R59, R60): the window starts three local loops below the nearest own loop, clamped to 0..40 and 0..24; a want counts the loops missing to three beyond the near edge, towards a neighbour that exists, and names it. -/
def Obligations.CyclePlacesWindowsAndWants : Prop :=
  ∀ (st : Straps) (set : Settings) (p : Pen) (n : Nat),
    let r := newRecord st set p n
    let lo := st.col.val * 48
    let near := max lo (min (lo + 47) p.peakX)
    let local' := if st.mirrorX then lo + 47 - near else near - lo
    let lowY := st.row.val * 32
    let nearY := max lowY (min (lowY + 31) p.peakY)
    let localY := if st.mirrorY then lowY + 31 - nearY else nearY - lowY
    r.number = n ∧ r.windowX = min (local' - 3) 40 ∧ r.windowY = min (localY - 3) 24 ∧
    (near < lo + 3 → r.wantX =
      if 0 < st.col.val then
        some { side := .low, count := lo + 3 - near, supplier := st.row.val * 8 + (st.col.val - 1) }
      else none) ∧
    (lo + 44 < near → r.wantX =
      if st.col.val + 1 < set.columns then
        some { side := .high, count := near - (lo + 44), supplier := st.row.val * 8 + (st.col.val + 1) }
      else none) ∧
    (lo + 3 ≤ near → near ≤ lo + 44 → r.wantX = none) ∧
    (nearY < lowY + 3 → r.wantY =
      if 0 < st.row.val then
        some { side := .low, count := lowY + 3 - nearY, supplier := (st.row.val - 1) * 8 + st.col.val }
      else none) ∧
    (lowY + 28 < nearY → r.wantY =
      if st.row.val + 1 < set.rows then
        some { side := .high, count := nearY - (lowY + 28), supplier := (st.row.val + 1) * 8 + st.col.val }
      else none) ∧
    (lowY + 3 ≤ nearY → nearY ≤ lowY + 28 → r.wantY = none) ∧
    r.tipX = [] ∧ r.tipY = [] ∧ r.collarX = [] ∧ r.collarY = [] ∧ r.strongest = none ∧ r.stale = false ∧
    r.edgeX = false ∧ r.edgeY = false ∧ r.collarBuilt = false

/-! ### The estimator -/

/-- The peak entry is the one with the largest amplitude, the lowest loop among equals (R76); with both neighbours the offset is 128 × (A₊ − A₋) over 2 × A₀ − A₋ − A₊, rounded, halves away from zero, clamped to −128..127, and without one of them it is 0 (R77); the coordinate lies in the peak loop's span (R78). -/
def Obligations.PeakIsInterpolated : Prop :=
  ∀ (before after : List Entry) (p : Entry), let es := before ++ p :: after
    (∀ i (h : i < es.length), es[i].loop = es[0].loop + i) →
    (∀ x ∈ before, x.amp < p.amp) → (∀ x ∈ after, x.amp ≤ p.amp) →
    peakEntry es = p ∧
    (before = [] ∨ after = [] → offsetOf es = none ∧ coordinateOf es = p.loop * 256 + 128) ∧
    (∀ front b a rest, before = front ++ [b] → after = a :: rest →
      let n : Int := 128 * ((a.amp : Int) - b.amp)
      let d : Int := 2 * (p.amp : Int) - b.amp - a.amp
      ∃ m : Int, (2 * m * d - d ≤ 2 * n ∧ 2 * n ≤ 2 * m * d + d) ∧
        (2 * n = 2 * m * d + d → n < 0) ∧ (2 * n = 2 * m * d - d → 0 < n) ∧
        offsetOf es = some (max (-128) (min 127 m)) ∧
        coordinateOf es = p.loop * 256 + 128 + max (-128) (min 127 m)) ∧
    (p.loop * 256 : Int) ≤ coordinateOf es ∧ coordinateOf es ≤ p.loop * 256 + 255

/-- In a cycle that is not weak: pressure from the phase ratio of the strongest path (R81), contact by its two thresholds (R83), reported pressure (R82, R84), tilt from the unclamped coordinates when it is valid, clamped to ±443 (R85, R86), hover filter (R87, R88, R89), flags (R90), last values (R91). -/
def Obligations.StrongCycleIsEstimated : Prop :=
  ∀ (set : Settings) (c : Chan) (level : Nat) (r : CycleRecord) (pen : Pen) (best : Strongest),
    r.strongest = some best → set.lossThreshold ≤ (peakEntry r.tipX).amp * 2 ^ (3 - level) →
    let e := estimate set c level r pen
    let q0 := if c = .A then set.offsetA else set.offsetB
    let kp := if c = .A then set.gainA else set.gainB
    let q := max (-4096) (min 4095 (Int.tdiv (1024 * best.q) best.i))
    let P := (max 0 (min 4095 (Int.tdiv ((q - q0) * kp) 256))).toNat
    let down := if 0 < best.i then (if pen.down then decide (set.contactUp ≤ P) else decide (set.contactDown ≤ P)) else pen.down
    let valid := r.collarBuilt = true ∧ set.tiltThreshold ≤ (peakEntry r.collarX).amp * 2 ^ (3 - level)
    let x := clampExtent set .X (coordinateOf r.tipX)
    let y := clampExtent set .Y (coordinateOf r.tipY)
    e.lost = false ∧ e.strength = (peakEntry r.tipX).amp * 2 ^ (3 - level) ∧ e.contents.level = level ∧
    e.contents.flags.tipDown = down ∧ e.pen.down = down ∧
    (0 < best.i → e.contents.pressure = (if down then P else 0) ∧ e.contents.flags.pressureHeld = false) ∧
    (best.i ≤ 0 → e.contents.pressure = (if pen.down then pen.lastPressure else 0) ∧
      e.contents.flags.pressureHeld = true) ∧
    (valid →
      let tx := roundDiv (512 * (coordinateOf r.collarX - coordinateOf r.tipX)) set.separation
      let ty := roundDiv (512 * (coordinateOf r.collarY - coordinateOf r.tipY)) set.separation
      e.contents.tiltX = max (-443) (min 443 tx) ∧ e.contents.tiltY = max (-443) (min 443 ty) ∧
      e.contents.flags.tiltHeld = false ∧
      (e.contents.flags.tiltLimited = true ↔ tx < -443 ∨ 443 < tx ∨ ty < -443 ∨ 443 < ty)) ∧
    (¬ valid → e.contents.tiltX = pen.lastTiltX ∧ e.contents.tiltY = pen.lastTiltY ∧
      e.contents.flags.tiltHeld = true ∧ e.contents.flags.tiltLimited = false) ∧
    (down = true → e.contents.x = x ∧ e.contents.y = y ∧ e.contents.flags.hoverFiltered = false ∧
      (pen.down = false → e.pen.history = [] ∧ e.pen.writeIndex = 0) ∧
      (pen.down = true → e.pen.history = pen.history)) ∧
    (down = false →
      (pen.down = true → e.pen.history = [(x, y)] ∧ e.pen.writeIndex = 1 % set.historyLength) ∧
      (pen.down = false →
        e.pen.history =
          (if pen.writeIndex < pen.history.length then pen.history.set pen.writeIndex (x, y)
          else pen.history ++ [(x, y)]) ∧
        e.pen.writeIndex = (pen.writeIndex + 1) % set.historyLength) ∧
      e.contents.x = (e.pen.history.map Prod.fst).sum / e.pen.history.length ∧
      e.contents.y = (e.pen.history.map Prod.snd).sum / e.pen.history.length ∧
      e.contents.flags.hoverFiltered = decide (1 < e.pen.history.length)) ∧
    e.contents.flags.weak = false ∧ e.contents.flags.positionHeld = false ∧
    (e.contents.flags.edgeX = true ↔ r.edgeX = true ∨ offsetOf r.tipX = none ∨
      (r.collarBuilt = true ∧ offsetOf r.collarX = none)) ∧
    (e.contents.flags.edgeY = true ↔ r.edgeY = true ∨ offsetOf r.tipY = none ∨
      (r.collarBuilt = true ∧ offsetOf r.collarY = none)) ∧
    e.contents.flags.baselineStale = r.stale ∧
    e.pen.weakCount = 0 ∧ e.pen.peakX = (peakEntry r.tipX).loop ∧ e.pen.peakY = (peakEntry r.tipY).loop ∧
    e.pen.lastX = e.contents.x ∧ e.pen.lastY = e.contents.y ∧ e.pen.lastPressure = e.contents.pressure ∧
    e.pen.lastTiltX = e.contents.tiltX ∧ e.pen.lastTiltY = e.contents.tiltY

/-- A weak cycle reports held values with *weak* and changes nothing of the pen record but the weak count, which rises by 1; at 4 the channel is lost (R79, R80). -/
def Obligations.WeakCycleIsHeld : Prop :=
  ∀ (set : Settings) (c : Chan) (level : Nat) (r : CycleRecord) (pen : Pen),
    (peakEntry r.tipX).amp * 2 ^ (3 - level) < set.lossThreshold → pen.weakCount ≤ 3 →
    let e := estimate set c level r pen
    e.contents.level = level ∧ e.contents.x = pen.lastX ∧ e.contents.y = pen.lastY ∧
    e.contents.pressure = (if pen.down then pen.lastPressure else 0) ∧
    e.contents.tiltX = pen.lastTiltX ∧ e.contents.tiltY = pen.lastTiltY ∧
    e.contents.flags =
      { weak := true, positionHeld := true, pressureHeld := true, tiltHeld := true, tipDown := pen.down
        saturated := e.contents.flags.saturated, baselineStale := r.stale } ∧
    e.pen = { pen with weakCount := pen.weakCount + 1 } ∧
    e.strength = (peakEntry r.tipX).amp * 2 ^ (3 - level) ∧ (e.lost = true ↔ pen.weakCount = 3)

/-- The drive level after a cycle that was estimated, weak or not (R37): one lower when a peak examined is clipped, 0 staying 0 with *saturated*; otherwise one higher below 3 when the larger tip peak is below the AGC low target; otherwise as it was. -/
def Obligations.DriveLevelFollowsThePeaks : Prop :=
  ∀ (set : Settings) (c : Chan) (level : Nat) (r : CycleRecord) (pen : Pen),
    let e := estimate set c level r pen
    let clipped := (peakEntry r.tipX).clipped = true ∨ (peakEntry r.tipY).clipped = true ∨
      (r.collarBuilt = true ∧ ((peakEntry r.collarX).clipped = true ∨ (peakEntry r.collarY).clipped = true))
    let faint := (peakEntry r.tipX).amp < set.agcTarget ∧ (peakEntry r.tipY).amp < set.agcTarget
    (clipped → e.level = level - 1 ∧ (e.contents.flags.saturated = true ↔ level = 0)) ∧
    (¬ clipped → e.contents.flags.saturated = false ∧
      e.level = if faint ∧ level < 3 then level + 1 else level)

/-! ### Laws that every command keeps -/

/-- Counts, levels and FIFOs stay in their ranges through every step, and the arbiter's queue never holds two requests of one requester (R32, R36, R41, R45, R80, R101, R110, R111, R148, R150). -/
def Obligations.StepsKeepTheRanges : Prop :=
  ∀ s t : State, RangesLawful s → step s = .next t → RangesLawful t

/-- Through every step no frame of the tile's own origin, nor one received with a hop count of 31 or more, waits to be forwarded (R142, R144, R145). -/
def Obligations.StepsKeepTheRing : Prop :=
  ∀ s t : State, RingLawful s → step s = .next t → RingLawful t

/-- Through every step exactly the frequency index of a sequence in DRIVE or DAMP is MASKED (R27), and an undriven sequence is in SETTLE or LISTEN with no loop to drive or damp (R17, R18, R31). -/
def Obligations.StepsKeepTheMasks : Prop :=
  ∀ s t : State, MaskLawful s → step s = .next t → MaskLawful t

/-- Through every step the sums stay within ±131040 and every baseline value within 0 to 180180, whatever samples the listens bring (R24, R40, R41). -/
def Obligations.StepsKeepTheReadings : Prop :=
  ∀ s t : State, ReadingsLawful s → step s = .next t → ReadingsLawful t

/-- The laws of the tracker hold through every step: records belong to their channel states, seek timers and pass exclude each other, the dormant timer runs exactly while every enabled channel seeks, and a tile in reset, reading its image or OUTSIDE does no work of its own (R73, R93 to R99, R102, R109, R110, R120, R125, R166). A driven sequence that is not abandoned has its channel in HOLD for a tip or collar and in SEEK for a seek, so that none begins otherwise; requests that wait belong to the same states, at most one of each requester (R32, R34). -/
def Obligations.StepsKeepTheTracker : Prop :=
  ∀ s t : State, TrackerLawful s → step s = .next t → TrackerLawful t

/-- Every REPORT in the own queue keeps its laws through every step: pressure 0 to 4095 and 0 with *tip down* clear, tilt within ±443, position on the surface; and so do the pen records they come from (R84, R86, R87, R89). -/
def Obligations.StepsKeepTheReports : Prop :=
  ∀ s t : State, ReportsLawful s → step s = .next t → ReportsLawful t

/-- The state after reset obeys every law (the values the spec gives no reset value for are the model's choice, log 4). -/
def Obligations.ResetIsLawful : Prop :=
  RangesLawful State.reset ∧ RingLawful State.reset ∧ MaskLawful State.reset ∧ ReadingsLawful State.reset ∧
    TrackerLawful State.reset ∧ ReportsLawful State.reset
end

