-- ==== Sys2Proof/Laws/Baseline.lean ====
section
/-! SUPPORT. What a baseline listen writes: exactly the records of its slot whose loop is live and whose path did not clip. -/

namespace Sys2Proof.Machine

/-- One path writes at most its own record. -/
theorem writeFloor_get (w : Nat → Floor → Floor) (s : State) (slot i j : Nat) (t : List Floor) :
    (writeFloor w s slot t j)[i]? =
      if writesFloor s slot j ∧ i = floorIndex (slotFreq slot) (slotLoop slot j) then t[i]?.map (w (pathMagnitude s j)) else t[i]? := by
  unfold writeFloor
  by_cases h : writesFloor s slot j = true
  · simp [h, List.getElem?_modify]
    by_cases h2 : floorIndex (slotFreq slot) (slotLoop slot j) = i
    · subst h2; simp
    · simp [h2, Ne.symm h2]
  · simp [h]

/-- The sixteen paths of a slot hear sixteen different loops (R44). -/
theorem slotLoop_inj {slot : Nat} {j k : Nat} (hj : j < 16) (hk : k < 16) (hs : slot < 24) (h : slotLoop slot j = slotLoop slot k) : j = k := by
  simp only [slotLoop, slotX, slotY] at h
  split_ifs at h <;> omega

/-- A record after some paths have been written: changed by the one path that hears it, if any. -/
theorem foldl_writeFloor_get (w : Nat → Floor → Floor) (s : State) (slot i : Nat) (hs : slot < 24) : ∀ (l : List Nat) (t : List Floor), (∀ j ∈ l, j < 16) → l.Nodup →
    (l.foldl (writeFloor w s slot) t)[i]? =
      match l.find? (fun j => writesFloor s slot j && i == floorIndex (slotFreq slot) (slotLoop slot j)) with
      | some j => t[i]?.map (w (pathMagnitude s j))
      | none => t[i]?
  | [], t, _, _ => by simp
  | j :: l, t, h, hn => by
    rw [List.foldl_cons, foldl_writeFloor_get w s slot i hs l _ (fun k hk => h k (by simp [hk])) (List.nodup_cons.1 hn).2]
    rw [List.find?_cons]
    by_cases hc : writesFloor s slot j ∧ i = floorIndex (slotFreq slot) (slotLoop slot j)
    · have hf : l.find? (fun j => writesFloor s slot j && i == floorIndex (slotFreq slot) (slotLoop slot j)) = none := by
        rw [List.find?_eq_none]
        intro k hk hc2
        simp only [Bool.and_eq_true, beq_iff_eq] at hc2
        have : slotLoop slot j = slotLoop slot k := by
          have := hc.2.symm.trans hc2.2; simp only [floorIndex] at this; omega
        have := slotLoop_inj (h j (by simp)) (h k (by simp [hk])) hs this
        subst this
        exact (List.nodup_cons.1 hn).1 hk
      rw [hf]
      simp [hc.1, ← hc.2, writeFloor_get]
    · have : (writesFloor s slot j && i == floorIndex (slotFreq slot) (slotLoop slot j)) = false := by
        rw [Bool.eq_false_iff]; simpa using hc
      rw [this]
      simp only [writeFloor_get, if_neg hc]

/-- The table keeps its length. -/
theorem writeSlot_length (w : Nat → Floor → Floor) (slot : Nat) (s : State) : (writeSlot w slot s).length = s.baseline.table.length := by
  have : ∀ (l : List Nat) (t : List Floor), (l.foldl (writeFloor w s slot) t).length = t.length := by
    intro l; induction l with
    | nil => intro t; rfl
    | cons j l ih => intro t; rw [List.foldl_cons, ih]; unfold writeFloor; split <;> simp
  exact this _ _

/-- The path that hears a loop, by both descriptions of R44. -/
theorem slotPath_eq_some_iff {slot n j : Nat} : slot < 24 → n < 80 → (slotPath slot n = some j ↔ j < 16 ∧ slotLoop slot j = n) := by
  intro hs hn
  simp only [slotPath, slotLoop, slotX, slotY]
  split_ifs <;> simp <;> omega

/-- Everything a slot's writing can do to a record. -/
theorem writeSlot_get (w : Nat → Floor → Floor) (slot : Nat) (s : State) (f n : Nat) (hs : slot < 24) (hf : f < 4) (hn : n < 80)
   (hlen : s.baseline.table.length = 320) (h16 : s.engine.paths.length = 16) :
    ∃ old new, s.baseline.table[f*80+n]? = some old ∧ (writeSlot w slot s)[f*80+n]? = some new ∧
     ((∃ j p, f = slot / 6 ∧ slotPath slot n = some j ∧ s.engine.paths[j]? = some p ∧ p.clipped = false ∧ deadLoop s.settings n = false ∧ new = w (magnitude p) old) ∨
      (new = old ∧ (f ≠ slot / 6 ∨ slotPath slot n = none ∨ deadLoop s.settings n = true ∨
              ∃ j p, slotPath slot n = some j ∧ s.engine.paths[j]? = some p ∧ p.clipped = true))) := by
  have hi : f*80+n < s.baseline.table.length := by omega
  refine ⟨s.baseline.table[f*80+n], (writeSlot w slot s)[f*80+n]'(by rw [writeSlot_length]; exact hi), by simp [hi], by simp [writeSlot_length, hi], ?_⟩
  have key := foldl_writeFloor_get w s slot (f*80+n) hs (List.range 16) s.baseline.table (by simp) (List.nodup_range)
  have e : (writeSlot w slot s)[f*80+n]? = some ((writeSlot w slot s)[f*80+n]'(by rw [writeSlot_length]; exact hi)) := by simp [writeSlot_length, hi]
  rw [show (List.range 16).foldl (writeFloor w s slot) s.baseline.table = writeSlot w slot s from rfl, e] at key
  by_cases hfs : f = slot / 6
  · cases hsp : slotPath slot n with
    | none =>
      right
      refine ⟨?_, by simp⟩
      have : (List.range 16).find? (fun j => writesFloor s slot j && f*80+n == floorIndex (slotFreq slot) (slotLoop slot j)) = none := by
        rw [List.find?_eq_none]; intro j hj hc
        simp only [Bool.and_eq_true, beq_iff_eq, floorIndex, slotFreq] at hc
        have : slotPath slot n = some j := (slotPath_eq_some_iff hs hn).2 ⟨by simpa using hj, by omega⟩
        simp_all
      rw [this] at key; simp [hi] at key; exact key
    | some j =>
      obtain ⟨hj, hjn⟩ := (slotPath_eq_some_iff hs hn).1 hsp
      have hp : s.engine.paths[j]? = some (s.engine.paths[j]'(by omega)) := by simp [h16, hj]
      by_cases hw : writesFloor s slot j = true
      · have hw' := hw
        simp only [writesFloor, hp, hjn] at hw'
        simp at hw'
        left
        refine ⟨j, s.engine.paths[j]'(by omega), hfs, rfl, hp, hw'.2, hw'.1, ?_⟩
        have : (List.range 16).find? (fun j => writesFloor s slot j && f*80+n == floorIndex (slotFreq slot) (slotLoop slot j)) = some j := by
          cases hfd : (List.range 16).find? (fun j => writesFloor s slot j && f*80+n == floorIndex (slotFreq slot) (slotLoop slot j)) with
          | none => rw [List.find?_eq_none] at hfd
                    exact absurd (by simp [hw, floorIndex, slotFreq, hfs, hjn]) (hfd j (by simpa using hj))
          | some k =>
            have h1 := List.find?_some hfd
            have h2 := List.mem_of_find?_eq_some hfd
            simp only [Bool.and_eq_true, beq_iff_eq, floorIndex, slotFreq] at h1
            rw [slotLoop_inj hj (by simpa using h2) hs (by omega)]
        rw [this] at key
        simp [hi, pathMagnitude, hp] at key; exact key
      · right
        refine ⟨?_, ?_⟩
        · have : (List.range 16).find? (fun j => writesFloor s slot j && f*80+n == floorIndex (slotFreq slot) (slotLoop slot j)) = none := by
            rw [List.find?_eq_none]; intro k hk hc
            simp only [Bool.and_eq_true, beq_iff_eq, floorIndex, slotFreq] at hc
            have := slotLoop_inj hj (by simpa using hk) hs (by omega : slotLoop slot j = slotLoop slot k)
            subst this; exact hw hc.1
          rw [this] at key; simp [hi] at key; exact key
        · simp only [writesFloor, hp, hjn] at hw
          simp at hw
          cases hd : deadLoop s.settings n
          · right; right; right; exact ⟨j, _, rfl, hp, by simpa using hw hd⟩
          · simp
  · right
    refine ⟨?_, by simp [hfs]⟩
    have : (List.range 16).find? (fun j => writesFloor s slot j && f*80+n == floorIndex (slotFreq slot) (slotLoop slot j)) = none := by
      rw [List.find?_eq_none]; intro j hj hc
      simp only [Bool.and_eq_true, beq_iff_eq, floorIndex, slotFreq] at hc
      have : slotLoop slot j < 80 := by simp only [slotLoop, slotX, slotY]; simp at hj; split_ifs <;> omega
      omega
    rw [this] at key; simp [hi] at key; exact key

end Sys2Proof.Machine
end

