-- ==== Sys2Proof/Laws/State.lean ====
section
/-! SUPPORT. What each basic update of the state leaves alone and what it sets: one lemma a field, for simp. -/

namespace Sys2Proof.Machine

/-! ### elapse -/

@[simp] theorem elapse_pending (dt : Nat) (s : State) : (elapse dt s).pending = s.pending := rfl
@[simp] theorem elapse_inReset (dt : Nat) (s : State) : (elapse dt s).inReset = s.inReset := rfl
@[simp] theorem elapse_resetUntil (dt : Nat) (s : State) : (elapse dt s).resetUntil = s.resetUntil := rfl
@[simp] theorem elapse_straps (dt : Nat) (s : State) : (elapse dt s).straps = s.straps := rfl
@[simp] theorem elapse_loader (dt : Nat) (s : State) : (elapse dt s).loader = s.loader := rfl
@[simp] theorem elapse_settings (dt : Nat) (s : State) : (elapse dt s).settings = s.settings := rfl
@[simp] theorem elapse_mode (dt : Nat) (s : State) : (elapse dt s).mode = s.mode := rfl
@[simp] theorem elapse_engine (dt : Nat) (s : State) : (elapse dt s).engine = s.engine := rfl
@[simp] theorem elapse_detectors (dt : Nat) (s : State) : (elapse dt s).detectors = s.detectors := rfl
@[simp] theorem elapse_queue (dt : Nat) (s : State) : (elapse dt s).queue = s.queue := rfl
@[simp] theorem elapse_baseline (dt : Nat) (s : State) : (elapse dt s).baseline = s.baseline := rfl
@[simp] theorem elapse_chanA (dt : Nat) (s : State) : (elapse dt s).chanA = s.chanA := rfl
@[simp] theorem elapse_chanB (dt : Nat) (s : State) : (elapse dt s).chanB = s.chanB := rfl
@[simp] theorem elapse_seek (dt : Nat) (s : State) : (elapse dt s).seek = s.seek := rfl
@[simp] theorem elapse_dormant (dt : Nat) (s : State) : (elapse dt s).dormant = s.dormant := rfl
@[simp] theorem elapse_link (dt : Nat) (s : State) : (elapse dt s).link = s.link := rfl
@[simp] theorem elapse_chan (dt : Nat) (s : State) (c : Chan) : (elapse dt s).chan c = s.chan c := by cases c <;> simp [State.chan]

/-! ### reach -/

@[simp] theorem reach_pending (m : Nat) (s : State) : (reach m s).pending = s.pending := rfl
@[simp] theorem reach_inReset (m : Nat) (s : State) : (reach m s).inReset = s.inReset := rfl
@[simp] theorem reach_resetUntil (m : Nat) (s : State) : (reach m s).resetUntil = s.resetUntil := rfl
@[simp] theorem reach_straps (m : Nat) (s : State) : (reach m s).straps = s.straps := rfl
@[simp] theorem reach_loader (m : Nat) (s : State) : (reach m s).loader = s.loader := rfl
@[simp] theorem reach_settings (m : Nat) (s : State) : (reach m s).settings = s.settings := rfl
@[simp] theorem reach_mode (m : Nat) (s : State) : (reach m s).mode = s.mode := rfl
@[simp] theorem reach_engine (m : Nat) (s : State) : (reach m s).engine = s.engine := rfl
@[simp] theorem reach_detectors (m : Nat) (s : State) : (reach m s).detectors = s.detectors := rfl
@[simp] theorem reach_queue (m : Nat) (s : State) : (reach m s).queue = s.queue := rfl
@[simp] theorem reach_baseline (m : Nat) (s : State) : (reach m s).baseline = s.baseline := rfl
@[simp] theorem reach_chanA (m : Nat) (s : State) : (reach m s).chanA = s.chanA := rfl
@[simp] theorem reach_chanB (m : Nat) (s : State) : (reach m s).chanB = s.chanB := rfl
@[simp] theorem reach_seek (m : Nat) (s : State) : (reach m s).seek = s.seek := rfl
@[simp] theorem reach_dormant (m : Nat) (s : State) : (reach m s).dormant = s.dormant := rfl
@[simp] theorem reach_link (m : Nat) (s : State) : (reach m s).link = s.link := rfl
@[simp] theorem reach_chan (m : Nat) (s : State) (c : Chan) : (reach m s).chan c = s.chan c := by cases c <;> simp [State.chan]

/-! ### setChan -/

@[simp] theorem setChan_now (c : Chan) (ch : Channel) (s : State) : (s.setChan c ch).now = s.now := by cases c <;> rfl
@[simp] theorem setChan_pending (c : Chan) (ch : Channel) (s : State) : (s.setChan c ch).pending = s.pending := by cases c <;> rfl
@[simp] theorem setChan_inReset (c : Chan) (ch : Channel) (s : State) : (s.setChan c ch).inReset = s.inReset := by cases c <;> rfl
@[simp] theorem setChan_resetUntil (c : Chan) (ch : Channel) (s : State) : (s.setChan c ch).resetUntil = s.resetUntil := by cases c <;> rfl
@[simp] theorem setChan_straps (c : Chan) (ch : Channel) (s : State) : (s.setChan c ch).straps = s.straps := by cases c <;> rfl
@[simp] theorem setChan_loader (c : Chan) (ch : Channel) (s : State) : (s.setChan c ch).loader = s.loader := by cases c <;> rfl
@[simp] theorem setChan_settings (c : Chan) (ch : Channel) (s : State) : (s.setChan c ch).settings = s.settings := by cases c <;> rfl
@[simp] theorem setChan_mode (c : Chan) (ch : Channel) (s : State) : (s.setChan c ch).mode = s.mode := by cases c <;> rfl
@[simp] theorem setChan_engine (c : Chan) (ch : Channel) (s : State) : (s.setChan c ch).engine = s.engine := by cases c <;> rfl
@[simp] theorem setChan_detectors (c : Chan) (ch : Channel) (s : State) : (s.setChan c ch).detectors = s.detectors := by cases c <;> rfl
@[simp] theorem setChan_queue (c : Chan) (ch : Channel) (s : State) : (s.setChan c ch).queue = s.queue := by cases c <;> rfl
@[simp] theorem setChan_baseline (c : Chan) (ch : Channel) (s : State) : (s.setChan c ch).baseline = s.baseline := by cases c <;> rfl
@[simp] theorem setChan_seek (c : Chan) (ch : Channel) (s : State) : (s.setChan c ch).seek = s.seek := by cases c <;> rfl
@[simp] theorem setChan_dormant (c : Chan) (ch : Channel) (s : State) : (s.setChan c ch).dormant = s.dormant := by cases c <;> rfl
@[simp] theorem setChan_link (c : Chan) (ch : Channel) (s : State) : (s.setChan c ch).link = s.link := by cases c <;> rfl

/-! ### modChan -/

@[simp] theorem modChan_now (c : Chan) (g : Channel → Channel) (s : State) : (s.modChan c g).now = s.now := by cases c <;> rfl
@[simp] theorem modChan_pending (c : Chan) (g : Channel → Channel) (s : State) : (s.modChan c g).pending = s.pending := by cases c <;> rfl
@[simp] theorem modChan_inReset (c : Chan) (g : Channel → Channel) (s : State) : (s.modChan c g).inReset = s.inReset := by cases c <;> rfl
@[simp] theorem modChan_resetUntil (c : Chan) (g : Channel → Channel) (s : State) : (s.modChan c g).resetUntil = s.resetUntil := by cases c <;> rfl
@[simp] theorem modChan_straps (c : Chan) (g : Channel → Channel) (s : State) : (s.modChan c g).straps = s.straps := by cases c <;> rfl
@[simp] theorem modChan_loader (c : Chan) (g : Channel → Channel) (s : State) : (s.modChan c g).loader = s.loader := by cases c <;> rfl
@[simp] theorem modChan_settings (c : Chan) (g : Channel → Channel) (s : State) : (s.modChan c g).settings = s.settings := by cases c <;> rfl
@[simp] theorem modChan_mode (c : Chan) (g : Channel → Channel) (s : State) : (s.modChan c g).mode = s.mode := by cases c <;> rfl
@[simp] theorem modChan_engine (c : Chan) (g : Channel → Channel) (s : State) : (s.modChan c g).engine = s.engine := by cases c <;> rfl
@[simp] theorem modChan_detectors (c : Chan) (g : Channel → Channel) (s : State) : (s.modChan c g).detectors = s.detectors := by cases c <;> rfl
@[simp] theorem modChan_queue (c : Chan) (g : Channel → Channel) (s : State) : (s.modChan c g).queue = s.queue := by cases c <;> rfl
@[simp] theorem modChan_baseline (c : Chan) (g : Channel → Channel) (s : State) : (s.modChan c g).baseline = s.baseline := by cases c <;> rfl
@[simp] theorem modChan_seek (c : Chan) (g : Channel → Channel) (s : State) : (s.modChan c g).seek = s.seek := by cases c <;> rfl
@[simp] theorem modChan_dormant (c : Chan) (g : Channel → Channel) (s : State) : (s.modChan c g).dormant = s.dormant := by cases c <;> rfl
@[simp] theorem modChan_link (c : Chan) (g : Channel → Channel) (s : State) : (s.modChan c g).link = s.link := by cases c <;> rfl

/-! ### setState -/

@[simp] theorem setState_now (c : Chan) (st : ChanState) (s : State) : (setState c st s).now = s.now := by cases c <;> rfl
@[simp] theorem setState_pending (c : Chan) (st : ChanState) (s : State) : (setState c st s).pending = s.pending := by cases c <;> rfl
@[simp] theorem setState_inReset (c : Chan) (st : ChanState) (s : State) : (setState c st s).inReset = s.inReset := by cases c <;> rfl
@[simp] theorem setState_resetUntil (c : Chan) (st : ChanState) (s : State) : (setState c st s).resetUntil = s.resetUntil := by cases c <;> rfl
@[simp] theorem setState_straps (c : Chan) (st : ChanState) (s : State) : (setState c st s).straps = s.straps := by cases c <;> rfl
@[simp] theorem setState_loader (c : Chan) (st : ChanState) (s : State) : (setState c st s).loader = s.loader := by cases c <;> rfl
@[simp] theorem setState_settings (c : Chan) (st : ChanState) (s : State) : (setState c st s).settings = s.settings := by cases c <;> rfl
@[simp] theorem setState_mode (c : Chan) (st : ChanState) (s : State) : (setState c st s).mode = s.mode := by cases c <;> rfl
@[simp] theorem setState_engine (c : Chan) (st : ChanState) (s : State) : (setState c st s).engine = s.engine := by cases c <;> rfl
@[simp] theorem setState_detectors (c : Chan) (st : ChanState) (s : State) : (setState c st s).detectors = s.detectors := by cases c <;> rfl
@[simp] theorem setState_queue (c : Chan) (st : ChanState) (s : State) : (setState c st s).queue = s.queue := by cases c <;> rfl
@[simp] theorem setState_baseline (c : Chan) (st : ChanState) (s : State) : (setState c st s).baseline = s.baseline := by cases c <;> rfl
@[simp] theorem setState_seek (c : Chan) (st : ChanState) (s : State) : (setState c st s).seek = s.seek := by cases c <;> rfl
@[simp] theorem setState_dormant (c : Chan) (st : ChanState) (s : State) : (setState c st s).dormant = s.dormant := by cases c <;> rfl
@[simp] theorem setState_link (c : Chan) (st : ChanState) (s : State) : (setState c st s).link = s.link := by cases c <;> rfl

/-! ### setArming -/

@[simp] theorem setArming_now (c : Chan) (a : Option Arming) (s : State) : (setArming c a s).now = s.now := by cases c <;> rfl
@[simp] theorem setArming_pending (c : Chan) (a : Option Arming) (s : State) : (setArming c a s).pending = s.pending := by cases c <;> rfl
@[simp] theorem setArming_inReset (c : Chan) (a : Option Arming) (s : State) : (setArming c a s).inReset = s.inReset := by cases c <;> rfl
@[simp] theorem setArming_resetUntil (c : Chan) (a : Option Arming) (s : State) : (setArming c a s).resetUntil = s.resetUntil := by cases c <;> rfl
@[simp] theorem setArming_straps (c : Chan) (a : Option Arming) (s : State) : (setArming c a s).straps = s.straps := by cases c <;> rfl
@[simp] theorem setArming_loader (c : Chan) (a : Option Arming) (s : State) : (setArming c a s).loader = s.loader := by cases c <;> rfl
@[simp] theorem setArming_settings (c : Chan) (a : Option Arming) (s : State) : (setArming c a s).settings = s.settings := by cases c <;> rfl
@[simp] theorem setArming_mode (c : Chan) (a : Option Arming) (s : State) : (setArming c a s).mode = s.mode := by cases c <;> rfl
@[simp] theorem setArming_engine (c : Chan) (a : Option Arming) (s : State) : (setArming c a s).engine = s.engine := by cases c <;> rfl
@[simp] theorem setArming_detectors (c : Chan) (a : Option Arming) (s : State) : (setArming c a s).detectors = s.detectors := by cases c <;> rfl
@[simp] theorem setArming_queue (c : Chan) (a : Option Arming) (s : State) : (setArming c a s).queue = s.queue := by cases c <;> rfl
@[simp] theorem setArming_baseline (c : Chan) (a : Option Arming) (s : State) : (setArming c a s).baseline = s.baseline := by cases c <;> rfl
@[simp] theorem setArming_seek (c : Chan) (a : Option Arming) (s : State) : (setArming c a s).seek = s.seek := by cases c <;> rfl
@[simp] theorem setArming_dormant (c : Chan) (a : Option Arming) (s : State) : (setArming c a s).dormant = s.dormant := by cases c <;> rfl
@[simp] theorem setArming_link (c : Chan) (a : Option Arming) (s : State) : (setArming c a s).link = s.link := by cases c <;> rfl

/-! ### modCycle -/

@[simp] theorem modCycle_now (c : Chan) (g : Cycle → Cycle) (s : State) : (modCycle c g s).now = s.now := by cases c <;> rfl
@[simp] theorem modCycle_pending (c : Chan) (g : Cycle → Cycle) (s : State) : (modCycle c g s).pending = s.pending := by cases c <;> rfl
@[simp] theorem modCycle_inReset (c : Chan) (g : Cycle → Cycle) (s : State) : (modCycle c g s).inReset = s.inReset := by cases c <;> rfl
@[simp] theorem modCycle_resetUntil (c : Chan) (g : Cycle → Cycle) (s : State) : (modCycle c g s).resetUntil = s.resetUntil := by cases c <;> rfl
@[simp] theorem modCycle_straps (c : Chan) (g : Cycle → Cycle) (s : State) : (modCycle c g s).straps = s.straps := by cases c <;> rfl
@[simp] theorem modCycle_loader (c : Chan) (g : Cycle → Cycle) (s : State) : (modCycle c g s).loader = s.loader := by cases c <;> rfl
@[simp] theorem modCycle_settings (c : Chan) (g : Cycle → Cycle) (s : State) : (modCycle c g s).settings = s.settings := by cases c <;> rfl
@[simp] theorem modCycle_mode (c : Chan) (g : Cycle → Cycle) (s : State) : (modCycle c g s).mode = s.mode := by cases c <;> rfl
@[simp] theorem modCycle_engine (c : Chan) (g : Cycle → Cycle) (s : State) : (modCycle c g s).engine = s.engine := by cases c <;> rfl
@[simp] theorem modCycle_detectors (c : Chan) (g : Cycle → Cycle) (s : State) : (modCycle c g s).detectors = s.detectors := by cases c <;> rfl
@[simp] theorem modCycle_queue (c : Chan) (g : Cycle → Cycle) (s : State) : (modCycle c g s).queue = s.queue := by cases c <;> rfl
@[simp] theorem modCycle_baseline (c : Chan) (g : Cycle → Cycle) (s : State) : (modCycle c g s).baseline = s.baseline := by cases c <;> rfl
@[simp] theorem modCycle_seek (c : Chan) (g : Cycle → Cycle) (s : State) : (modCycle c g s).seek = s.seek := by cases c <;> rfl
@[simp] theorem modCycle_dormant (c : Chan) (g : Cycle → Cycle) (s : State) : (modCycle c g s).dormant = s.dormant := by cases c <;> rfl
@[simp] theorem modCycle_link (c : Chan) (g : Cycle → Cycle) (s : State) : (modCycle c g s).link = s.link := by cases c <;> rfl

/-! ### modRecord -/

@[simp] theorem modRecord_now (c : Chan) (g : CycleRecord → CycleRecord) (s : State) : (modRecord c g s).now = s.now := by cases c <;> rfl
@[simp] theorem modRecord_pending (c : Chan) (g : CycleRecord → CycleRecord) (s : State) : (modRecord c g s).pending = s.pending := by cases c <;> rfl
@[simp] theorem modRecord_inReset (c : Chan) (g : CycleRecord → CycleRecord) (s : State) : (modRecord c g s).inReset = s.inReset := by cases c <;> rfl
@[simp] theorem modRecord_resetUntil (c : Chan) (g : CycleRecord → CycleRecord) (s : State) : (modRecord c g s).resetUntil = s.resetUntil := by cases c <;> rfl
@[simp] theorem modRecord_straps (c : Chan) (g : CycleRecord → CycleRecord) (s : State) : (modRecord c g s).straps = s.straps := by cases c <;> rfl
@[simp] theorem modRecord_loader (c : Chan) (g : CycleRecord → CycleRecord) (s : State) : (modRecord c g s).loader = s.loader := by cases c <;> rfl
@[simp] theorem modRecord_settings (c : Chan) (g : CycleRecord → CycleRecord) (s : State) : (modRecord c g s).settings = s.settings := by cases c <;> rfl
@[simp] theorem modRecord_mode (c : Chan) (g : CycleRecord → CycleRecord) (s : State) : (modRecord c g s).mode = s.mode := by cases c <;> rfl
@[simp] theorem modRecord_engine (c : Chan) (g : CycleRecord → CycleRecord) (s : State) : (modRecord c g s).engine = s.engine := by cases c <;> rfl
@[simp] theorem modRecord_detectors (c : Chan) (g : CycleRecord → CycleRecord) (s : State) : (modRecord c g s).detectors = s.detectors := by cases c <;> rfl
@[simp] theorem modRecord_queue (c : Chan) (g : CycleRecord → CycleRecord) (s : State) : (modRecord c g s).queue = s.queue := by cases c <;> rfl
@[simp] theorem modRecord_baseline (c : Chan) (g : CycleRecord → CycleRecord) (s : State) : (modRecord c g s).baseline = s.baseline := by cases c <;> rfl
@[simp] theorem modRecord_seek (c : Chan) (g : CycleRecord → CycleRecord) (s : State) : (modRecord c g s).seek = s.seek := by cases c <;> rfl
@[simp] theorem modRecord_dormant (c : Chan) (g : CycleRecord → CycleRecord) (s : State) : (modRecord c g s).dormant = s.dormant := by cases c <;> rfl
@[simp] theorem modRecord_link (c : Chan) (g : CycleRecord → CycleRecord) (s : State) : (modRecord c g s).link = s.link := by cases c <;> rfl

/-! ### setSpacing -/

@[simp] theorem setSpacing_now (c : Chan) (n : Nat) (s : State) : (setSpacing c n s).now = s.now := by cases c <;> rfl
@[simp] theorem setSpacing_pending (c : Chan) (n : Nat) (s : State) : (setSpacing c n s).pending = s.pending := by cases c <;> rfl
@[simp] theorem setSpacing_inReset (c : Chan) (n : Nat) (s : State) : (setSpacing c n s).inReset = s.inReset := by cases c <;> rfl
@[simp] theorem setSpacing_resetUntil (c : Chan) (n : Nat) (s : State) : (setSpacing c n s).resetUntil = s.resetUntil := by cases c <;> rfl
@[simp] theorem setSpacing_straps (c : Chan) (n : Nat) (s : State) : (setSpacing c n s).straps = s.straps := by cases c <;> rfl
@[simp] theorem setSpacing_loader (c : Chan) (n : Nat) (s : State) : (setSpacing c n s).loader = s.loader := by cases c <;> rfl
@[simp] theorem setSpacing_settings (c : Chan) (n : Nat) (s : State) : (setSpacing c n s).settings = s.settings := by cases c <;> rfl
@[simp] theorem setSpacing_mode (c : Chan) (n : Nat) (s : State) : (setSpacing c n s).mode = s.mode := by cases c <;> rfl
@[simp] theorem setSpacing_engine (c : Chan) (n : Nat) (s : State) : (setSpacing c n s).engine = s.engine := by cases c <;> rfl
@[simp] theorem setSpacing_detectors (c : Chan) (n : Nat) (s : State) : (setSpacing c n s).detectors = s.detectors := by cases c <;> rfl
@[simp] theorem setSpacing_queue (c : Chan) (n : Nat) (s : State) : (setSpacing c n s).queue = s.queue := by cases c <;> rfl
@[simp] theorem setSpacing_baseline (c : Chan) (n : Nat) (s : State) : (setSpacing c n s).baseline = s.baseline := by cases c <;> rfl
@[simp] theorem setSpacing_seek (c : Chan) (n : Nat) (s : State) : (setSpacing c n s).seek = s.seek := by cases c <;> rfl
@[simp] theorem setSpacing_dormant (c : Chan) (n : Nat) (s : State) : (setSpacing c n s).dormant = s.dormant := by cases c <;> rfl
@[simp] theorem setSpacing_link (c : Chan) (n : Nat) (s : State) : (setSpacing c n s).link = s.link := by cases c <;> rfl

/-! ### dropRecords -/

@[simp] theorem dropRecords_now (c : Chan) (s : State) : (dropRecords c s).now = s.now := by cases c <;> rfl
@[simp] theorem dropRecords_pending (c : Chan) (s : State) : (dropRecords c s).pending = s.pending := by cases c <;> rfl
@[simp] theorem dropRecords_inReset (c : Chan) (s : State) : (dropRecords c s).inReset = s.inReset := by cases c <;> rfl
@[simp] theorem dropRecords_resetUntil (c : Chan) (s : State) : (dropRecords c s).resetUntil = s.resetUntil := by cases c <;> rfl
@[simp] theorem dropRecords_straps (c : Chan) (s : State) : (dropRecords c s).straps = s.straps := by cases c <;> rfl
@[simp] theorem dropRecords_loader (c : Chan) (s : State) : (dropRecords c s).loader = s.loader := by cases c <;> rfl
@[simp] theorem dropRecords_settings (c : Chan) (s : State) : (dropRecords c s).settings = s.settings := by cases c <;> rfl
@[simp] theorem dropRecords_mode (c : Chan) (s : State) : (dropRecords c s).mode = s.mode := by cases c <;> rfl
@[simp] theorem dropRecords_engine (c : Chan) (s : State) : (dropRecords c s).engine = s.engine := by cases c <;> rfl
@[simp] theorem dropRecords_detectors (c : Chan) (s : State) : (dropRecords c s).detectors = s.detectors := by cases c <;> rfl
@[simp] theorem dropRecords_queue (c : Chan) (s : State) : (dropRecords c s).queue = s.queue := by cases c <;> rfl
@[simp] theorem dropRecords_baseline (c : Chan) (s : State) : (dropRecords c s).baseline = s.baseline := by cases c <;> rfl
@[simp] theorem dropRecords_seek (c : Chan) (s : State) : (dropRecords c s).seek = s.seek := by cases c <;> rfl
@[simp] theorem dropRecords_dormant (c : Chan) (s : State) : (dropRecords c s).dormant = s.dormant := by cases c <;> rfl
@[simp] theorem dropRecords_link (c : Chan) (s : State) : (dropRecords c s).link = s.link := by cases c <;> rfl

/-! ### enterYield -/

@[simp] theorem enterYield_now (c : Chan) (s : State) : (enterYield c s).now = s.now := by cases c <;> rfl
@[simp] theorem enterYield_pending (c : Chan) (s : State) : (enterYield c s).pending = s.pending := by cases c <;> rfl
@[simp] theorem enterYield_inReset (c : Chan) (s : State) : (enterYield c s).inReset = s.inReset := by cases c <;> rfl
@[simp] theorem enterYield_resetUntil (c : Chan) (s : State) : (enterYield c s).resetUntil = s.resetUntil := by cases c <;> rfl
@[simp] theorem enterYield_straps (c : Chan) (s : State) : (enterYield c s).straps = s.straps := by cases c <;> rfl
@[simp] theorem enterYield_loader (c : Chan) (s : State) : (enterYield c s).loader = s.loader := by cases c <;> rfl
@[simp] theorem enterYield_settings (c : Chan) (s : State) : (enterYield c s).settings = s.settings := by cases c <;> rfl
@[simp] theorem enterYield_mode (c : Chan) (s : State) : (enterYield c s).mode = s.mode := by cases c <;> rfl
@[simp] theorem enterYield_engine (c : Chan) (s : State) : (enterYield c s).engine = s.engine := by cases c <;> rfl
@[simp] theorem enterYield_detectors (c : Chan) (s : State) : (enterYield c s).detectors = s.detectors := by cases c <;> rfl
@[simp] theorem enterYield_queue (c : Chan) (s : State) : (enterYield c s).queue = s.queue := by cases c <;> rfl
@[simp] theorem enterYield_baseline (c : Chan) (s : State) : (enterYield c s).baseline = s.baseline := by cases c <;> rfl
@[simp] theorem enterYield_seek (c : Chan) (s : State) : (enterYield c s).seek = s.seek := by cases c <;> rfl
@[simp] theorem enterYield_dormant (c : Chan) (s : State) : (enterYield c s).dormant = s.dormant := by cases c <;> rfl
@[simp] theorem enterYield_link (c : Chan) (s : State) : (enterYield c s).link = s.link := by cases c <;> rfl

/-! ### enterPhase -/

@[simp] theorem enterPhase_now (ph : Phase) (q : Sequence) (s : State) : (enterPhase ph q s).now = s.now := rfl
@[simp] theorem enterPhase_pending (ph : Phase) (q : Sequence) (s : State) : (enterPhase ph q s).pending = s.pending := rfl
@[simp] theorem enterPhase_inReset (ph : Phase) (q : Sequence) (s : State) : (enterPhase ph q s).inReset = s.inReset := rfl
@[simp] theorem enterPhase_resetUntil (ph : Phase) (q : Sequence) (s : State) : (enterPhase ph q s).resetUntil = s.resetUntil := rfl
@[simp] theorem enterPhase_straps (ph : Phase) (q : Sequence) (s : State) : (enterPhase ph q s).straps = s.straps := rfl
@[simp] theorem enterPhase_loader (ph : Phase) (q : Sequence) (s : State) : (enterPhase ph q s).loader = s.loader := rfl
@[simp] theorem enterPhase_settings (ph : Phase) (q : Sequence) (s : State) : (enterPhase ph q s).settings = s.settings := rfl
@[simp] theorem enterPhase_mode (ph : Phase) (q : Sequence) (s : State) : (enterPhase ph q s).mode = s.mode := rfl
@[simp] theorem enterPhase_detectors (ph : Phase) (q : Sequence) (s : State) : (enterPhase ph q s).detectors = s.detectors := rfl
@[simp] theorem enterPhase_queue (ph : Phase) (q : Sequence) (s : State) : (enterPhase ph q s).queue = s.queue := rfl
@[simp] theorem enterPhase_baseline (ph : Phase) (q : Sequence) (s : State) : (enterPhase ph q s).baseline = s.baseline := rfl
@[simp] theorem enterPhase_chanA (ph : Phase) (q : Sequence) (s : State) : (enterPhase ph q s).chanA = s.chanA := rfl
@[simp] theorem enterPhase_chanB (ph : Phase) (q : Sequence) (s : State) : (enterPhase ph q s).chanB = s.chanB := rfl
@[simp] theorem enterPhase_seek (ph : Phase) (q : Sequence) (s : State) : (enterPhase ph q s).seek = s.seek := rfl
@[simp] theorem enterPhase_dormant (ph : Phase) (q : Sequence) (s : State) : (enterPhase ph q s).dormant = s.dormant := rfl
@[simp] theorem enterPhase_link (ph : Phase) (q : Sequence) (s : State) : (enterPhase ph q s).link = s.link := rfl
@[simp] theorem enterPhase_chan (ph : Phase) (q : Sequence) (s : State) (c : Chan) : (enterPhase ph q s).chan c = s.chan c := by cases c <;> simp [State.chan]

/-! ### sampleFor -/

@[simp] theorem sampleFor_now (v : List Period) (s : State) : (sampleFor v s).now = s.now := rfl
@[simp] theorem sampleFor_pending (v : List Period) (s : State) : (sampleFor v s).pending = s.pending := rfl
@[simp] theorem sampleFor_inReset (v : List Period) (s : State) : (sampleFor v s).inReset = s.inReset := rfl
@[simp] theorem sampleFor_resetUntil (v : List Period) (s : State) : (sampleFor v s).resetUntil = s.resetUntil := rfl
@[simp] theorem sampleFor_straps (v : List Period) (s : State) : (sampleFor v s).straps = s.straps := rfl
@[simp] theorem sampleFor_loader (v : List Period) (s : State) : (sampleFor v s).loader = s.loader := rfl
@[simp] theorem sampleFor_settings (v : List Period) (s : State) : (sampleFor v s).settings = s.settings := rfl
@[simp] theorem sampleFor_mode (v : List Period) (s : State) : (sampleFor v s).mode = s.mode := rfl
@[simp] theorem sampleFor_detectors (v : List Period) (s : State) : (sampleFor v s).detectors = s.detectors := rfl
@[simp] theorem sampleFor_queue (v : List Period) (s : State) : (sampleFor v s).queue = s.queue := rfl
@[simp] theorem sampleFor_baseline (v : List Period) (s : State) : (sampleFor v s).baseline = s.baseline := rfl
@[simp] theorem sampleFor_chanA (v : List Period) (s : State) : (sampleFor v s).chanA = s.chanA := rfl
@[simp] theorem sampleFor_chanB (v : List Period) (s : State) : (sampleFor v s).chanB = s.chanB := rfl
@[simp] theorem sampleFor_seek (v : List Period) (s : State) : (sampleFor v s).seek = s.seek := rfl
@[simp] theorem sampleFor_dormant (v : List Period) (s : State) : (sampleFor v s).dormant = s.dormant := rfl
@[simp] theorem sampleFor_link (v : List Period) (s : State) : (sampleFor v s).link = s.link := rfl
@[simp] theorem sampleFor_chan (v : List Period) (s : State) (c : Chan) : (sampleFor v s).chan c = s.chan c := by cases c <;> simp [State.chan]

/-! ### sampleUntilCut -/

@[simp] theorem sampleUntilCut_now (l : Sampled) (s : State) : (sampleUntilCut l s).now = s.now := by
  simp only [sampleUntilCut]; split <;> rfl
@[simp] theorem sampleUntilCut_pending (l : Sampled) (s : State) : (sampleUntilCut l s).pending = s.pending := by
  simp only [sampleUntilCut]; split <;> rfl
@[simp] theorem sampleUntilCut_inReset (l : Sampled) (s : State) : (sampleUntilCut l s).inReset = s.inReset := by
  simp only [sampleUntilCut]; split <;> rfl
@[simp] theorem sampleUntilCut_resetUntil (l : Sampled) (s : State) : (sampleUntilCut l s).resetUntil = s.resetUntil := by
  simp only [sampleUntilCut]; split <;> rfl
@[simp] theorem sampleUntilCut_straps (l : Sampled) (s : State) : (sampleUntilCut l s).straps = s.straps := by
  simp only [sampleUntilCut]; split <;> rfl
@[simp] theorem sampleUntilCut_loader (l : Sampled) (s : State) : (sampleUntilCut l s).loader = s.loader := by
  simp only [sampleUntilCut]; split <;> rfl
@[simp] theorem sampleUntilCut_settings (l : Sampled) (s : State) : (sampleUntilCut l s).settings = s.settings := by
  simp only [sampleUntilCut]; split <;> rfl
@[simp] theorem sampleUntilCut_mode (l : Sampled) (s : State) : (sampleUntilCut l s).mode = s.mode := by
  simp only [sampleUntilCut]; split <;> rfl
@[simp] theorem sampleUntilCut_detectors (l : Sampled) (s : State) : (sampleUntilCut l s).detectors = s.detectors := by
  simp only [sampleUntilCut]; split <;> rfl
@[simp] theorem sampleUntilCut_queue (l : Sampled) (s : State) : (sampleUntilCut l s).queue = s.queue := by
  simp only [sampleUntilCut]; split <;> rfl
@[simp] theorem sampleUntilCut_baseline (l : Sampled) (s : State) : (sampleUntilCut l s).baseline = s.baseline := by
  simp only [sampleUntilCut]; split <;> rfl
@[simp] theorem sampleUntilCut_chanA (l : Sampled) (s : State) : (sampleUntilCut l s).chanA = s.chanA := by
  simp only [sampleUntilCut]; split <;> rfl
@[simp] theorem sampleUntilCut_chanB (l : Sampled) (s : State) : (sampleUntilCut l s).chanB = s.chanB := by
  simp only [sampleUntilCut]; split <;> rfl
@[simp] theorem sampleUntilCut_seek (l : Sampled) (s : State) : (sampleUntilCut l s).seek = s.seek := by
  simp only [sampleUntilCut]; split <;> rfl
@[simp] theorem sampleUntilCut_dormant (l : Sampled) (s : State) : (sampleUntilCut l s).dormant = s.dormant := by
  simp only [sampleUntilCut]; split <;> rfl
@[simp] theorem sampleUntilCut_link (l : Sampled) (s : State) : (sampleUntilCut l s).link = s.link := by
  simp only [sampleUntilCut]; split <;> rfl
@[simp] theorem sampleUntilCut_chan (l : Sampled) (s : State) (c : Chan) : (sampleUntilCut l s).chan c = s.chan c := by cases c <;> simp [State.chan]

/-! ### setDetector -/

@[simp] theorem setDetector_now (f : Nat) (d : Detector) (s : State) : (setDetector f d s).now = s.now := rfl
@[simp] theorem setDetector_pending (f : Nat) (d : Detector) (s : State) : (setDetector f d s).pending = s.pending := rfl
@[simp] theorem setDetector_inReset (f : Nat) (d : Detector) (s : State) : (setDetector f d s).inReset = s.inReset := rfl
@[simp] theorem setDetector_resetUntil (f : Nat) (d : Detector) (s : State) : (setDetector f d s).resetUntil = s.resetUntil := rfl
@[simp] theorem setDetector_straps (f : Nat) (d : Detector) (s : State) : (setDetector f d s).straps = s.straps := rfl
@[simp] theorem setDetector_loader (f : Nat) (d : Detector) (s : State) : (setDetector f d s).loader = s.loader := rfl
@[simp] theorem setDetector_settings (f : Nat) (d : Detector) (s : State) : (setDetector f d s).settings = s.settings := rfl
@[simp] theorem setDetector_mode (f : Nat) (d : Detector) (s : State) : (setDetector f d s).mode = s.mode := rfl
@[simp] theorem setDetector_engine (f : Nat) (d : Detector) (s : State) : (setDetector f d s).engine = s.engine := rfl
@[simp] theorem setDetector_queue (f : Nat) (d : Detector) (s : State) : (setDetector f d s).queue = s.queue := rfl
@[simp] theorem setDetector_baseline (f : Nat) (d : Detector) (s : State) : (setDetector f d s).baseline = s.baseline := rfl
@[simp] theorem setDetector_chanA (f : Nat) (d : Detector) (s : State) : (setDetector f d s).chanA = s.chanA := rfl
@[simp] theorem setDetector_chanB (f : Nat) (d : Detector) (s : State) : (setDetector f d s).chanB = s.chanB := rfl
@[simp] theorem setDetector_seek (f : Nat) (d : Detector) (s : State) : (setDetector f d s).seek = s.seek := rfl
@[simp] theorem setDetector_dormant (f : Nat) (d : Detector) (s : State) : (setDetector f d s).dormant = s.dormant := rfl
@[simp] theorem setDetector_link (f : Nat) (d : Detector) (s : State) : (setDetector f d s).link = s.link := rfl
@[simp] theorem setDetector_chan (f : Nat) (d : Detector) (s : State) (c : Chan) : (setDetector f d s).chan c = s.chan c := by cases c <;> simp [State.chan]

/-! ### unmask -/

@[simp] theorem unmask_now (f : Nat) (b : Bool) (s : State) : (unmask f b s).now = s.now := rfl
@[simp] theorem unmask_pending (f : Nat) (b : Bool) (s : State) : (unmask f b s).pending = s.pending := rfl
@[simp] theorem unmask_inReset (f : Nat) (b : Bool) (s : State) : (unmask f b s).inReset = s.inReset := rfl
@[simp] theorem unmask_resetUntil (f : Nat) (b : Bool) (s : State) : (unmask f b s).resetUntil = s.resetUntil := rfl
@[simp] theorem unmask_straps (f : Nat) (b : Bool) (s : State) : (unmask f b s).straps = s.straps := rfl
@[simp] theorem unmask_loader (f : Nat) (b : Bool) (s : State) : (unmask f b s).loader = s.loader := rfl
@[simp] theorem unmask_settings (f : Nat) (b : Bool) (s : State) : (unmask f b s).settings = s.settings := rfl
@[simp] theorem unmask_mode (f : Nat) (b : Bool) (s : State) : (unmask f b s).mode = s.mode := rfl
@[simp] theorem unmask_engine (f : Nat) (b : Bool) (s : State) : (unmask f b s).engine = s.engine := rfl
@[simp] theorem unmask_queue (f : Nat) (b : Bool) (s : State) : (unmask f b s).queue = s.queue := rfl
@[simp] theorem unmask_baseline (f : Nat) (b : Bool) (s : State) : (unmask f b s).baseline = s.baseline := rfl
@[simp] theorem unmask_chanA (f : Nat) (b : Bool) (s : State) : (unmask f b s).chanA = s.chanA := rfl
@[simp] theorem unmask_chanB (f : Nat) (b : Bool) (s : State) : (unmask f b s).chanB = s.chanB := rfl
@[simp] theorem unmask_seek (f : Nat) (b : Bool) (s : State) : (unmask f b s).seek = s.seek := rfl
@[simp] theorem unmask_dormant (f : Nat) (b : Bool) (s : State) : (unmask f b s).dormant = s.dormant := rfl
@[simp] theorem unmask_link (f : Nat) (b : Bool) (s : State) : (unmask f b s).link = s.link := rfl
@[simp] theorem unmask_chan (f : Nat) (b : Bool) (s : State) (c : Chan) : (unmask f b s).chan c = s.chan c := by cases c <;> simp [State.chan]

/-! ### goIdle -/

@[simp] theorem goIdle_now (s : State) : (goIdle s).now = s.now := rfl
@[simp] theorem goIdle_pending (s : State) : (goIdle s).pending = s.pending := rfl
@[simp] theorem goIdle_inReset (s : State) : (goIdle s).inReset = s.inReset := rfl
@[simp] theorem goIdle_resetUntil (s : State) : (goIdle s).resetUntil = s.resetUntil := rfl
@[simp] theorem goIdle_straps (s : State) : (goIdle s).straps = s.straps := rfl
@[simp] theorem goIdle_loader (s : State) : (goIdle s).loader = s.loader := rfl
@[simp] theorem goIdle_settings (s : State) : (goIdle s).settings = s.settings := rfl
@[simp] theorem goIdle_mode (s : State) : (goIdle s).mode = s.mode := rfl
@[simp] theorem goIdle_detectors (s : State) : (goIdle s).detectors = s.detectors := rfl
@[simp] theorem goIdle_queue (s : State) : (goIdle s).queue = s.queue := rfl
@[simp] theorem goIdle_baseline (s : State) : (goIdle s).baseline = s.baseline := rfl
@[simp] theorem goIdle_chanA (s : State) : (goIdle s).chanA = s.chanA := rfl
@[simp] theorem goIdle_chanB (s : State) : (goIdle s).chanB = s.chanB := rfl
@[simp] theorem goIdle_seek (s : State) : (goIdle s).seek = s.seek := rfl
@[simp] theorem goIdle_dormant (s : State) : (goIdle s).dormant = s.dormant := rfl
@[simp] theorem goIdle_link (s : State) : (goIdle s).link = s.link := rfl
@[simp] theorem goIdle_chan (s : State) (c : Chan) : (goIdle s).chan c = s.chan c := by cases c <;> simp [State.chan]

/-! ### withdraw -/

@[simp] theorem withdraw_now (w : Request → Bool) (s : State) : (withdraw w s).now = s.now := rfl
@[simp] theorem withdraw_pending (w : Request → Bool) (s : State) : (withdraw w s).pending = s.pending := rfl
@[simp] theorem withdraw_inReset (w : Request → Bool) (s : State) : (withdraw w s).inReset = s.inReset := rfl
@[simp] theorem withdraw_resetUntil (w : Request → Bool) (s : State) : (withdraw w s).resetUntil = s.resetUntil := rfl
@[simp] theorem withdraw_straps (w : Request → Bool) (s : State) : (withdraw w s).straps = s.straps := rfl
@[simp] theorem withdraw_loader (w : Request → Bool) (s : State) : (withdraw w s).loader = s.loader := rfl
@[simp] theorem withdraw_settings (w : Request → Bool) (s : State) : (withdraw w s).settings = s.settings := rfl
@[simp] theorem withdraw_mode (w : Request → Bool) (s : State) : (withdraw w s).mode = s.mode := rfl
@[simp] theorem withdraw_engine (w : Request → Bool) (s : State) : (withdraw w s).engine = s.engine := rfl
@[simp] theorem withdraw_detectors (w : Request → Bool) (s : State) : (withdraw w s).detectors = s.detectors := rfl
@[simp] theorem withdraw_baseline (w : Request → Bool) (s : State) : (withdraw w s).baseline = s.baseline := rfl
@[simp] theorem withdraw_chanA (w : Request → Bool) (s : State) : (withdraw w s).chanA = s.chanA := rfl
@[simp] theorem withdraw_chanB (w : Request → Bool) (s : State) : (withdraw w s).chanB = s.chanB := rfl
@[simp] theorem withdraw_seek (w : Request → Bool) (s : State) : (withdraw w s).seek = s.seek := rfl
@[simp] theorem withdraw_dormant (w : Request → Bool) (s : State) : (withdraw w s).dormant = s.dormant := rfl
@[simp] theorem withdraw_link (w : Request → Bool) (s : State) : (withdraw w s).link = s.link := rfl
@[simp] theorem withdraw_chan (w : Request → Bool) (s : State) (c : Chan) : (withdraw w s).chan c = s.chan c := by cases c <;> simp [State.chan]

/-! ### queueFrame -/

@[simp] theorem queueFrame_now (f : Frame) (s : State) : (queueFrame f s).now = s.now := rfl
@[simp] theorem queueFrame_pending (f : Frame) (s : State) : (queueFrame f s).pending = s.pending := rfl
@[simp] theorem queueFrame_inReset (f : Frame) (s : State) : (queueFrame f s).inReset = s.inReset := rfl
@[simp] theorem queueFrame_resetUntil (f : Frame) (s : State) : (queueFrame f s).resetUntil = s.resetUntil := rfl
@[simp] theorem queueFrame_straps (f : Frame) (s : State) : (queueFrame f s).straps = s.straps := rfl
@[simp] theorem queueFrame_loader (f : Frame) (s : State) : (queueFrame f s).loader = s.loader := rfl
@[simp] theorem queueFrame_settings (f : Frame) (s : State) : (queueFrame f s).settings = s.settings := rfl
@[simp] theorem queueFrame_mode (f : Frame) (s : State) : (queueFrame f s).mode = s.mode := rfl
@[simp] theorem queueFrame_engine (f : Frame) (s : State) : (queueFrame f s).engine = s.engine := rfl
@[simp] theorem queueFrame_detectors (f : Frame) (s : State) : (queueFrame f s).detectors = s.detectors := rfl
@[simp] theorem queueFrame_queue (f : Frame) (s : State) : (queueFrame f s).queue = s.queue := rfl
@[simp] theorem queueFrame_baseline (f : Frame) (s : State) : (queueFrame f s).baseline = s.baseline := rfl
@[simp] theorem queueFrame_chanA (f : Frame) (s : State) : (queueFrame f s).chanA = s.chanA := rfl
@[simp] theorem queueFrame_chanB (f : Frame) (s : State) : (queueFrame f s).chanB = s.chanB := rfl
@[simp] theorem queueFrame_seek (f : Frame) (s : State) : (queueFrame f s).seek = s.seek := rfl
@[simp] theorem queueFrame_dormant (f : Frame) (s : State) : (queueFrame f s).dormant = s.dormant := rfl
@[simp] theorem queueFrame_chan (f : Frame) (s : State) (c : Chan) : (queueFrame f s).chan c = s.chan c := by cases c <;> simp [State.chan]

/-! ### setReception -/

@[simp] theorem setReception_now (r : Option (List Byte)) (s : State) : (setReception r s).now = s.now := rfl
@[simp] theorem setReception_pending (r : Option (List Byte)) (s : State) : (setReception r s).pending = s.pending := rfl
@[simp] theorem setReception_inReset (r : Option (List Byte)) (s : State) : (setReception r s).inReset = s.inReset := rfl
@[simp] theorem setReception_resetUntil (r : Option (List Byte)) (s : State) : (setReception r s).resetUntil = s.resetUntil := rfl
@[simp] theorem setReception_straps (r : Option (List Byte)) (s : State) : (setReception r s).straps = s.straps := rfl
@[simp] theorem setReception_loader (r : Option (List Byte)) (s : State) : (setReception r s).loader = s.loader := rfl
@[simp] theorem setReception_settings (r : Option (List Byte)) (s : State) : (setReception r s).settings = s.settings := rfl
@[simp] theorem setReception_mode (r : Option (List Byte)) (s : State) : (setReception r s).mode = s.mode := rfl
@[simp] theorem setReception_engine (r : Option (List Byte)) (s : State) : (setReception r s).engine = s.engine := rfl
@[simp] theorem setReception_detectors (r : Option (List Byte)) (s : State) : (setReception r s).detectors = s.detectors := rfl
@[simp] theorem setReception_queue (r : Option (List Byte)) (s : State) : (setReception r s).queue = s.queue := rfl
@[simp] theorem setReception_baseline (r : Option (List Byte)) (s : State) : (setReception r s).baseline = s.baseline := rfl
@[simp] theorem setReception_chanA (r : Option (List Byte)) (s : State) : (setReception r s).chanA = s.chanA := rfl
@[simp] theorem setReception_chanB (r : Option (List Byte)) (s : State) : (setReception r s).chanB = s.chanB := rfl
@[simp] theorem setReception_seek (r : Option (List Byte)) (s : State) : (setReception r s).seek = s.seek := rfl
@[simp] theorem setReception_dormant (r : Option (List Byte)) (s : State) : (setReception r s).dormant = s.dormant := rfl
@[simp] theorem setReception_chan (r : Option (List Byte)) (s : State) (c : Chan) : (setReception r s).chan c = s.chan c := by cases c <;> simp [State.chan]

/-! ### heardSymbol -/

@[simp] theorem heardSymbol_now (s : State) : (heardSymbol s).now = s.now := rfl
@[simp] theorem heardSymbol_pending (s : State) : (heardSymbol s).pending = s.pending := rfl
@[simp] theorem heardSymbol_inReset (s : State) : (heardSymbol s).inReset = s.inReset := rfl
@[simp] theorem heardSymbol_resetUntil (s : State) : (heardSymbol s).resetUntil = s.resetUntil := rfl
@[simp] theorem heardSymbol_straps (s : State) : (heardSymbol s).straps = s.straps := rfl
@[simp] theorem heardSymbol_loader (s : State) : (heardSymbol s).loader = s.loader := rfl
@[simp] theorem heardSymbol_settings (s : State) : (heardSymbol s).settings = s.settings := rfl
@[simp] theorem heardSymbol_mode (s : State) : (heardSymbol s).mode = s.mode := rfl
@[simp] theorem heardSymbol_engine (s : State) : (heardSymbol s).engine = s.engine := rfl
@[simp] theorem heardSymbol_detectors (s : State) : (heardSymbol s).detectors = s.detectors := rfl
@[simp] theorem heardSymbol_queue (s : State) : (heardSymbol s).queue = s.queue := rfl
@[simp] theorem heardSymbol_baseline (s : State) : (heardSymbol s).baseline = s.baseline := rfl
@[simp] theorem heardSymbol_chanA (s : State) : (heardSymbol s).chanA = s.chanA := rfl
@[simp] theorem heardSymbol_chanB (s : State) : (heardSymbol s).chanB = s.chanB := rfl
@[simp] theorem heardSymbol_seek (s : State) : (heardSymbol s).seek = s.seek := rfl
@[simp] theorem heardSymbol_dormant (s : State) : (heardSymbol s).dormant = s.dormant := rfl
@[simp] theorem heardSymbol_chan (s : State) (c : Chan) : (heardSymbol s).chan c = s.chan c := by cases c <;> simp [State.chan]

/-! ### endPass -/

@[simp] theorem endPass_now (s : State) : (endPass s).now = s.now := rfl
@[simp] theorem endPass_pending (s : State) : (endPass s).pending = s.pending := rfl
@[simp] theorem endPass_inReset (s : State) : (endPass s).inReset = s.inReset := rfl
@[simp] theorem endPass_resetUntil (s : State) : (endPass s).resetUntil = s.resetUntil := rfl
@[simp] theorem endPass_straps (s : State) : (endPass s).straps = s.straps := rfl
@[simp] theorem endPass_loader (s : State) : (endPass s).loader = s.loader := rfl
@[simp] theorem endPass_settings (s : State) : (endPass s).settings = s.settings := rfl
@[simp] theorem endPass_mode (s : State) : (endPass s).mode = s.mode := rfl
@[simp] theorem endPass_engine (s : State) : (endPass s).engine = s.engine := rfl
@[simp] theorem endPass_detectors (s : State) : (endPass s).detectors = s.detectors := rfl
@[simp] theorem endPass_queue (s : State) : (endPass s).queue = s.queue := rfl
@[simp] theorem endPass_baseline (s : State) : (endPass s).baseline = s.baseline := rfl
@[simp] theorem endPass_chanA (s : State) : (endPass s).chanA = s.chanA := rfl
@[simp] theorem endPass_chanB (s : State) : (endPass s).chanB = s.chanB := rfl
@[simp] theorem endPass_dormant (s : State) : (endPass s).dormant = s.dormant := rfl
@[simp] theorem endPass_link (s : State) : (endPass s).link = s.link := rfl
@[simp] theorem endPass_chan (s : State) (c : Chan) : (endPass s).chan c = s.chan c := by cases c <;> simp [State.chan]

/-! ### backOff -/

@[simp] theorem backOff_now (s : State) : (backOff s).now = s.now := rfl
@[simp] theorem backOff_pending (s : State) : (backOff s).pending = s.pending := rfl
@[simp] theorem backOff_inReset (s : State) : (backOff s).inReset = s.inReset := rfl
@[simp] theorem backOff_resetUntil (s : State) : (backOff s).resetUntil = s.resetUntil := rfl
@[simp] theorem backOff_straps (s : State) : (backOff s).straps = s.straps := rfl
@[simp] theorem backOff_loader (s : State) : (backOff s).loader = s.loader := rfl
@[simp] theorem backOff_settings (s : State) : (backOff s).settings = s.settings := rfl
@[simp] theorem backOff_mode (s : State) : (backOff s).mode = s.mode := rfl
@[simp] theorem backOff_engine (s : State) : (backOff s).engine = s.engine := rfl
@[simp] theorem backOff_detectors (s : State) : (backOff s).detectors = s.detectors := rfl
@[simp] theorem backOff_queue (s : State) : (backOff s).queue = s.queue := rfl
@[simp] theorem backOff_baseline (s : State) : (backOff s).baseline = s.baseline := rfl
@[simp] theorem backOff_chanA (s : State) : (backOff s).chanA = s.chanA := rfl
@[simp] theorem backOff_chanB (s : State) : (backOff s).chanB = s.chanB := rfl
@[simp] theorem backOff_dormant (s : State) : (backOff s).dormant = s.dormant := rfl
@[simp] theorem backOff_link (s : State) : (backOff s).link = s.link := rfl
@[simp] theorem backOff_chan (s : State) (c : Chan) : (backOff s).chan c = s.chan c := by cases c <;> simp [State.chan]

/-! ### timeDormant -/

@[simp] theorem timeDormant_now (s : State) : (timeDormant s).now = s.now := rfl
@[simp] theorem timeDormant_pending (s : State) : (timeDormant s).pending = s.pending := rfl
@[simp] theorem timeDormant_inReset (s : State) : (timeDormant s).inReset = s.inReset := rfl
@[simp] theorem timeDormant_resetUntil (s : State) : (timeDormant s).resetUntil = s.resetUntil := rfl
@[simp] theorem timeDormant_straps (s : State) : (timeDormant s).straps = s.straps := rfl
@[simp] theorem timeDormant_loader (s : State) : (timeDormant s).loader = s.loader := rfl
@[simp] theorem timeDormant_settings (s : State) : (timeDormant s).settings = s.settings := rfl
@[simp] theorem timeDormant_mode (s : State) : (timeDormant s).mode = s.mode := rfl
@[simp] theorem timeDormant_engine (s : State) : (timeDormant s).engine = s.engine := rfl
@[simp] theorem timeDormant_detectors (s : State) : (timeDormant s).detectors = s.detectors := rfl
@[simp] theorem timeDormant_queue (s : State) : (timeDormant s).queue = s.queue := rfl
@[simp] theorem timeDormant_baseline (s : State) : (timeDormant s).baseline = s.baseline := rfl
@[simp] theorem timeDormant_chanA (s : State) : (timeDormant s).chanA = s.chanA := rfl
@[simp] theorem timeDormant_chanB (s : State) : (timeDormant s).chanB = s.chanB := rfl
@[simp] theorem timeDormant_seek (s : State) : (timeDormant s).seek = s.seek := rfl
@[simp] theorem timeDormant_link (s : State) : (timeDormant s).link = s.link := rfl
@[simp] theorem timeDormant_chan (s : State) (c : Chan) : (timeDormant s).chan c = s.chan c := by cases c <;> simp [State.chan]

/-! ### beginSweep -/

@[simp] theorem beginSweep_now (s : State) : (beginSweep s).now = s.now := rfl
@[simp] theorem beginSweep_pending (s : State) : (beginSweep s).pending = s.pending := rfl
@[simp] theorem beginSweep_inReset (s : State) : (beginSweep s).inReset = s.inReset := rfl
@[simp] theorem beginSweep_resetUntil (s : State) : (beginSweep s).resetUntil = s.resetUntil := rfl
@[simp] theorem beginSweep_straps (s : State) : (beginSweep s).straps = s.straps := rfl
@[simp] theorem beginSweep_loader (s : State) : (beginSweep s).loader = s.loader := rfl
@[simp] theorem beginSweep_settings (s : State) : (beginSweep s).settings = s.settings := rfl
@[simp] theorem beginSweep_mode (s : State) : (beginSweep s).mode = s.mode := rfl
@[simp] theorem beginSweep_engine (s : State) : (beginSweep s).engine = s.engine := rfl
@[simp] theorem beginSweep_detectors (s : State) : (beginSweep s).detectors = s.detectors := rfl
@[simp] theorem beginSweep_queue (s : State) : (beginSweep s).queue = s.queue := rfl
@[simp] theorem beginSweep_chanA (s : State) : (beginSweep s).chanA = s.chanA := rfl
@[simp] theorem beginSweep_chanB (s : State) : (beginSweep s).chanB = s.chanB := rfl
@[simp] theorem beginSweep_seek (s : State) : (beginSweep s).seek = s.seek := rfl
@[simp] theorem beginSweep_dormant (s : State) : (beginSweep s).dormant = s.dormant := rfl
@[simp] theorem beginSweep_link (s : State) : (beginSweep s).link = s.link := rfl
@[simp] theorem beginSweep_chan (s : State) (c : Chan) : (beginSweep s).chan c = s.chan c := by cases c <;> simp [State.chan]

/-! ### endSweep -/

@[simp] theorem endSweep_now (s : State) : (endSweep s).now = s.now := rfl
@[simp] theorem endSweep_pending (s : State) : (endSweep s).pending = s.pending := rfl
@[simp] theorem endSweep_inReset (s : State) : (endSweep s).inReset = s.inReset := rfl
@[simp] theorem endSweep_resetUntil (s : State) : (endSweep s).resetUntil = s.resetUntil := rfl
@[simp] theorem endSweep_straps (s : State) : (endSweep s).straps = s.straps := rfl
@[simp] theorem endSweep_loader (s : State) : (endSweep s).loader = s.loader := rfl
@[simp] theorem endSweep_settings (s : State) : (endSweep s).settings = s.settings := rfl
@[simp] theorem endSweep_mode (s : State) : (endSweep s).mode = s.mode := rfl
@[simp] theorem endSweep_engine (s : State) : (endSweep s).engine = s.engine := rfl
@[simp] theorem endSweep_detectors (s : State) : (endSweep s).detectors = s.detectors := rfl
@[simp] theorem endSweep_queue (s : State) : (endSweep s).queue = s.queue := rfl
@[simp] theorem endSweep_chanA (s : State) : (endSweep s).chanA = s.chanA := rfl
@[simp] theorem endSweep_chanB (s : State) : (endSweep s).chanB = s.chanB := rfl
@[simp] theorem endSweep_seek (s : State) : (endSweep s).seek = s.seek := rfl
@[simp] theorem endSweep_dormant (s : State) : (endSweep s).dormant = s.dormant := rfl
@[simp] theorem endSweep_link (s : State) : (endSweep s).link = s.link := rfl
@[simp] theorem endSweep_chan (s : State) (c : Chan) : (endSweep s).chan c = s.chan c := by cases c <;> simp [State.chan]

/-! ### writeSweep -/

@[simp] theorem writeSweep_now (slot : Nat) (s : State) : (writeSweep slot s).now = s.now := rfl
@[simp] theorem writeSweep_pending (slot : Nat) (s : State) : (writeSweep slot s).pending = s.pending := rfl
@[simp] theorem writeSweep_inReset (slot : Nat) (s : State) : (writeSweep slot s).inReset = s.inReset := rfl
@[simp] theorem writeSweep_resetUntil (slot : Nat) (s : State) : (writeSweep slot s).resetUntil = s.resetUntil := rfl
@[simp] theorem writeSweep_straps (slot : Nat) (s : State) : (writeSweep slot s).straps = s.straps := rfl
@[simp] theorem writeSweep_loader (slot : Nat) (s : State) : (writeSweep slot s).loader = s.loader := rfl
@[simp] theorem writeSweep_settings (slot : Nat) (s : State) : (writeSweep slot s).settings = s.settings := rfl
@[simp] theorem writeSweep_mode (slot : Nat) (s : State) : (writeSweep slot s).mode = s.mode := rfl
@[simp] theorem writeSweep_engine (slot : Nat) (s : State) : (writeSweep slot s).engine = s.engine := rfl
@[simp] theorem writeSweep_detectors (slot : Nat) (s : State) : (writeSweep slot s).detectors = s.detectors := rfl
@[simp] theorem writeSweep_queue (slot : Nat) (s : State) : (writeSweep slot s).queue = s.queue := rfl
@[simp] theorem writeSweep_chanA (slot : Nat) (s : State) : (writeSweep slot s).chanA = s.chanA := rfl
@[simp] theorem writeSweep_chanB (slot : Nat) (s : State) : (writeSweep slot s).chanB = s.chanB := rfl
@[simp] theorem writeSweep_seek (slot : Nat) (s : State) : (writeSweep slot s).seek = s.seek := rfl
@[simp] theorem writeSweep_dormant (slot : Nat) (s : State) : (writeSweep slot s).dormant = s.dormant := rfl
@[simp] theorem writeSweep_link (slot : Nat) (s : State) : (writeSweep slot s).link = s.link := rfl
@[simp] theorem writeSweep_chan (slot : Nat) (s : State) (c : Chan) : (writeSweep slot s).chan c = s.chan c := by cases c <;> simp [State.chan]

/-! ### completeRefresh -/

@[simp] theorem completeRefresh_now (slot : Nat) (s : State) : (completeRefresh slot s).now = s.now := rfl
@[simp] theorem completeRefresh_pending (slot : Nat) (s : State) : (completeRefresh slot s).pending = s.pending := rfl
@[simp] theorem completeRefresh_inReset (slot : Nat) (s : State) : (completeRefresh slot s).inReset = s.inReset := rfl
@[simp] theorem completeRefresh_resetUntil (slot : Nat) (s : State) : (completeRefresh slot s).resetUntil = s.resetUntil := rfl
@[simp] theorem completeRefresh_straps (slot : Nat) (s : State) : (completeRefresh slot s).straps = s.straps := rfl
@[simp] theorem completeRefresh_loader (slot : Nat) (s : State) : (completeRefresh slot s).loader = s.loader := rfl
@[simp] theorem completeRefresh_settings (slot : Nat) (s : State) : (completeRefresh slot s).settings = s.settings := rfl
@[simp] theorem completeRefresh_mode (slot : Nat) (s : State) : (completeRefresh slot s).mode = s.mode := rfl
@[simp] theorem completeRefresh_engine (slot : Nat) (s : State) : (completeRefresh slot s).engine = s.engine := rfl
@[simp] theorem completeRefresh_detectors (slot : Nat) (s : State) : (completeRefresh slot s).detectors = s.detectors := rfl
@[simp] theorem completeRefresh_queue (slot : Nat) (s : State) : (completeRefresh slot s).queue = s.queue := rfl
@[simp] theorem completeRefresh_chanA (slot : Nat) (s : State) : (completeRefresh slot s).chanA = s.chanA := rfl
@[simp] theorem completeRefresh_chanB (slot : Nat) (s : State) : (completeRefresh slot s).chanB = s.chanB := rfl
@[simp] theorem completeRefresh_seek (slot : Nat) (s : State) : (completeRefresh slot s).seek = s.seek := rfl
@[simp] theorem completeRefresh_dormant (slot : Nat) (s : State) : (completeRefresh slot s).dormant = s.dormant := rfl
@[simp] theorem completeRefresh_link (slot : Nat) (s : State) : (completeRefresh slot s).link = s.link := rfl
@[simp] theorem completeRefresh_chan (slot : Nat) (s : State) (c : Chan) : (completeRefresh slot s).chan c = s.chan c := by cases c <;> simp [State.chan]

/-! ### restartSeek -/

@[simp] theorem restartSeek_now (s : State) : (restartSeek s).now = s.now := rfl
@[simp] theorem restartSeek_pending (s : State) : (restartSeek s).pending = s.pending := rfl
@[simp] theorem restartSeek_inReset (s : State) : (restartSeek s).inReset = s.inReset := rfl
@[simp] theorem restartSeek_resetUntil (s : State) : (restartSeek s).resetUntil = s.resetUntil := rfl
@[simp] theorem restartSeek_straps (s : State) : (restartSeek s).straps = s.straps := rfl
@[simp] theorem restartSeek_loader (s : State) : (restartSeek s).loader = s.loader := rfl
@[simp] theorem restartSeek_settings (s : State) : (restartSeek s).settings = s.settings := rfl
@[simp] theorem restartSeek_mode (s : State) : (restartSeek s).mode = s.mode := rfl
@[simp] theorem restartSeek_engine (s : State) : (restartSeek s).engine = s.engine := rfl
@[simp] theorem restartSeek_detectors (s : State) : (restartSeek s).detectors = s.detectors := rfl
@[simp] theorem restartSeek_queue (s : State) : (restartSeek s).queue = s.queue := rfl
@[simp] theorem restartSeek_baseline (s : State) : (restartSeek s).baseline = s.baseline := rfl
@[simp] theorem restartSeek_chanA (s : State) : (restartSeek s).chanA = s.chanA := rfl
@[simp] theorem restartSeek_chanB (s : State) : (restartSeek s).chanB = s.chanB := rfl
@[simp] theorem restartSeek_dormant (s : State) : (restartSeek s).dormant = s.dormant := rfl
@[simp] theorem restartSeek_link (s : State) : (restartSeek s).link = s.link := rfl
@[simp] theorem restartSeek_chan (s : State) (c : Chan) : (restartSeek s).chan c = s.chan c := by cases c <;> simp [State.chan]

/-! ### loadImage -/

@[simp] theorem loadImage_now (o : List Byte) (s : State) : (loadImage o s).now = s.now := by unfold loadImage; split <;> rfl
@[simp] theorem loadImage_pending (o : List Byte) (s : State) : (loadImage o s).pending = s.pending := by unfold loadImage; split <;> rfl
@[simp] theorem loadImage_inReset (o : List Byte) (s : State) : (loadImage o s).inReset = s.inReset := by unfold loadImage; split <;> rfl
@[simp] theorem loadImage_resetUntil (o : List Byte) (s : State) : (loadImage o s).resetUntil = s.resetUntil := by unfold loadImage; split <;> rfl
@[simp] theorem loadImage_straps (o : List Byte) (s : State) : (loadImage o s).straps = s.straps := by unfold loadImage; split <;> rfl
@[simp] theorem loadImage_mode (o : List Byte) (s : State) : (loadImage o s).mode = s.mode := by unfold loadImage; split <;> rfl
@[simp] theorem loadImage_engine (o : List Byte) (s : State) : (loadImage o s).engine = s.engine := by unfold loadImage; split <;> rfl
@[simp] theorem loadImage_detectors (o : List Byte) (s : State) : (loadImage o s).detectors = s.detectors := by unfold loadImage; split <;> rfl
@[simp] theorem loadImage_queue (o : List Byte) (s : State) : (loadImage o s).queue = s.queue := by unfold loadImage; split <;> rfl
@[simp] theorem loadImage_baseline (o : List Byte) (s : State) : (loadImage o s).baseline = s.baseline := by unfold loadImage; split <;> rfl
@[simp] theorem loadImage_chanA (o : List Byte) (s : State) : (loadImage o s).chanA = s.chanA := by unfold loadImage; split <;> rfl
@[simp] theorem loadImage_chanB (o : List Byte) (s : State) : (loadImage o s).chanB = s.chanB := by unfold loadImage; split <;> rfl
@[simp] theorem loadImage_seek (o : List Byte) (s : State) : (loadImage o s).seek = s.seek := by unfold loadImage; split <;> rfl
@[simp] theorem loadImage_dormant (o : List Byte) (s : State) : (loadImage o s).dormant = s.dormant := by unfold loadImage; split <;> rfl
@[simp] theorem loadImage_link (o : List Byte) (s : State) : (loadImage o s).link = s.link := by unfold loadImage; split <;> rfl
@[simp] theorem loadImage_chan (o : List Byte) (s : State) (c : Chan) : (loadImage o s).chan c = s.chan c := by cases c <;> simp [State.chan]

/-! ### putOnLine -/

@[simp] theorem putOnLine_pending (own : Bool) (o : List Byte) (s : State) : (putOnLine own o s).pending = s.pending := rfl
@[simp] theorem putOnLine_inReset (own : Bool) (o : List Byte) (s : State) : (putOnLine own o s).inReset = s.inReset := rfl
@[simp] theorem putOnLine_resetUntil (own : Bool) (o : List Byte) (s : State) : (putOnLine own o s).resetUntil = s.resetUntil := rfl
@[simp] theorem putOnLine_straps (own : Bool) (o : List Byte) (s : State) : (putOnLine own o s).straps = s.straps := rfl
@[simp] theorem putOnLine_loader (own : Bool) (o : List Byte) (s : State) : (putOnLine own o s).loader = s.loader := rfl
@[simp] theorem putOnLine_settings (own : Bool) (o : List Byte) (s : State) : (putOnLine own o s).settings = s.settings := rfl
@[simp] theorem putOnLine_mode (own : Bool) (o : List Byte) (s : State) : (putOnLine own o s).mode = s.mode := rfl
@[simp] theorem putOnLine_engine (own : Bool) (o : List Byte) (s : State) : (putOnLine own o s).engine = s.engine := rfl
@[simp] theorem putOnLine_detectors (own : Bool) (o : List Byte) (s : State) : (putOnLine own o s).detectors = s.detectors := rfl
@[simp] theorem putOnLine_queue (own : Bool) (o : List Byte) (s : State) : (putOnLine own o s).queue = s.queue := rfl
@[simp] theorem putOnLine_baseline (own : Bool) (o : List Byte) (s : State) : (putOnLine own o s).baseline = s.baseline := rfl
@[simp] theorem putOnLine_chanA (own : Bool) (o : List Byte) (s : State) : (putOnLine own o s).chanA = s.chanA := rfl
@[simp] theorem putOnLine_chanB (own : Bool) (o : List Byte) (s : State) : (putOnLine own o s).chanB = s.chanB := rfl
@[simp] theorem putOnLine_seek (own : Bool) (o : List Byte) (s : State) : (putOnLine own o s).seek = s.seek := rfl
@[simp] theorem putOnLine_dormant (own : Bool) (o : List Byte) (s : State) : (putOnLine own o s).dormant = s.dormant := rfl
@[simp] theorem putOnLine_chan (own : Bool) (o : List Byte) (s : State) (c : Chan) : (putOnLine own o s).chan c = s.chan c := by cases c <;> simp [State.chan]

/-! ### startSequence -/

@[simp] theorem startSequence_now (ph : Phase) (q : Sequence) (s : State) : (startSequence ph q s).now = s.now := by unfold startSequence enterPhase; by_cases h : ph = .drive <;> simp [h, setDetector]
@[simp] theorem startSequence_pending (ph : Phase) (q : Sequence) (s : State) : (startSequence ph q s).pending = s.pending := by unfold startSequence enterPhase; by_cases h : ph = .drive <;> simp [h, setDetector]
@[simp] theorem startSequence_inReset (ph : Phase) (q : Sequence) (s : State) : (startSequence ph q s).inReset = s.inReset := by unfold startSequence enterPhase; by_cases h : ph = .drive <;> simp [h, setDetector]
@[simp] theorem startSequence_resetUntil (ph : Phase) (q : Sequence) (s : State) : (startSequence ph q s).resetUntil = s.resetUntil := by unfold startSequence enterPhase; by_cases h : ph = .drive <;> simp [h, setDetector]
@[simp] theorem startSequence_straps (ph : Phase) (q : Sequence) (s : State) : (startSequence ph q s).straps = s.straps := by unfold startSequence enterPhase; by_cases h : ph = .drive <;> simp [h, setDetector]
@[simp] theorem startSequence_loader (ph : Phase) (q : Sequence) (s : State) : (startSequence ph q s).loader = s.loader := by unfold startSequence enterPhase; by_cases h : ph = .drive <;> simp [h, setDetector]
@[simp] theorem startSequence_settings (ph : Phase) (q : Sequence) (s : State) : (startSequence ph q s).settings = s.settings := by unfold startSequence enterPhase; by_cases h : ph = .drive <;> simp [h, setDetector]
@[simp] theorem startSequence_mode (ph : Phase) (q : Sequence) (s : State) : (startSequence ph q s).mode = s.mode := by unfold startSequence enterPhase; by_cases h : ph = .drive <;> simp [h, setDetector]
@[simp] theorem startSequence_queue (ph : Phase) (q : Sequence) (s : State) : (startSequence ph q s).queue = s.queue := by unfold startSequence enterPhase; by_cases h : ph = .drive <;> simp [h, setDetector]
@[simp] theorem startSequence_baseline (ph : Phase) (q : Sequence) (s : State) : (startSequence ph q s).baseline = s.baseline := by unfold startSequence enterPhase; by_cases h : ph = .drive <;> simp [h, setDetector]
@[simp] theorem startSequence_chanA (ph : Phase) (q : Sequence) (s : State) : (startSequence ph q s).chanA = s.chanA := by unfold startSequence enterPhase; by_cases h : ph = .drive <;> simp [h, setDetector]
@[simp] theorem startSequence_chanB (ph : Phase) (q : Sequence) (s : State) : (startSequence ph q s).chanB = s.chanB := by unfold startSequence enterPhase; by_cases h : ph = .drive <;> simp [h, setDetector]
@[simp] theorem startSequence_seek (ph : Phase) (q : Sequence) (s : State) : (startSequence ph q s).seek = s.seek := by unfold startSequence enterPhase; by_cases h : ph = .drive <;> simp [h, setDetector]
@[simp] theorem startSequence_dormant (ph : Phase) (q : Sequence) (s : State) : (startSequence ph q s).dormant = s.dormant := by unfold startSequence enterPhase; by_cases h : ph = .drive <;> simp [h, setDetector]
@[simp] theorem startSequence_link (ph : Phase) (q : Sequence) (s : State) : (startSequence ph q s).link = s.link := by unfold startSequence enterPhase; by_cases h : ph = .drive <;> simp [h, setDetector]
@[simp] theorem startSequence_chan (ph : Phase) (q : Sequence) (s : State) (c : Chan) : (startSequence ph q s).chan c = s.chan c := by cases c <;> simp [State.chan]

/-! ### markRunning -/

@[simp] theorem markRunning_now (w : Job → Bool) (g : Sequence → Sequence) (s : State) : (markRunning w g s).now = s.now := by unfold markRunning; split <;> (try split) <;> rfl
@[simp] theorem markRunning_pending (w : Job → Bool) (g : Sequence → Sequence) (s : State) : (markRunning w g s).pending = s.pending := by unfold markRunning; split <;> (try split) <;> rfl
@[simp] theorem markRunning_inReset (w : Job → Bool) (g : Sequence → Sequence) (s : State) : (markRunning w g s).inReset = s.inReset := by unfold markRunning; split <;> (try split) <;> rfl
@[simp] theorem markRunning_resetUntil (w : Job → Bool) (g : Sequence → Sequence) (s : State) : (markRunning w g s).resetUntil = s.resetUntil := by unfold markRunning; split <;> (try split) <;> rfl
@[simp] theorem markRunning_straps (w : Job → Bool) (g : Sequence → Sequence) (s : State) : (markRunning w g s).straps = s.straps := by unfold markRunning; split <;> (try split) <;> rfl
@[simp] theorem markRunning_loader (w : Job → Bool) (g : Sequence → Sequence) (s : State) : (markRunning w g s).loader = s.loader := by unfold markRunning; split <;> (try split) <;> rfl
@[simp] theorem markRunning_settings (w : Job → Bool) (g : Sequence → Sequence) (s : State) : (markRunning w g s).settings = s.settings := by unfold markRunning; split <;> (try split) <;> rfl
@[simp] theorem markRunning_mode (w : Job → Bool) (g : Sequence → Sequence) (s : State) : (markRunning w g s).mode = s.mode := by unfold markRunning; split <;> (try split) <;> rfl
@[simp] theorem markRunning_detectors (w : Job → Bool) (g : Sequence → Sequence) (s : State) : (markRunning w g s).detectors = s.detectors := by unfold markRunning; split <;> (try split) <;> rfl
@[simp] theorem markRunning_queue (w : Job → Bool) (g : Sequence → Sequence) (s : State) : (markRunning w g s).queue = s.queue := by unfold markRunning; split <;> (try split) <;> rfl
@[simp] theorem markRunning_baseline (w : Job → Bool) (g : Sequence → Sequence) (s : State) : (markRunning w g s).baseline = s.baseline := by unfold markRunning; split <;> (try split) <;> rfl
@[simp] theorem markRunning_chanA (w : Job → Bool) (g : Sequence → Sequence) (s : State) : (markRunning w g s).chanA = s.chanA := by unfold markRunning; split <;> (try split) <;> rfl
@[simp] theorem markRunning_chanB (w : Job → Bool) (g : Sequence → Sequence) (s : State) : (markRunning w g s).chanB = s.chanB := by unfold markRunning; split <;> (try split) <;> rfl
@[simp] theorem markRunning_seek (w : Job → Bool) (g : Sequence → Sequence) (s : State) : (markRunning w g s).seek = s.seek := by unfold markRunning; split <;> (try split) <;> rfl
@[simp] theorem markRunning_dormant (w : Job → Bool) (g : Sequence → Sequence) (s : State) : (markRunning w g s).dormant = s.dormant := by unfold markRunning; split <;> (try split) <;> rfl
@[simp] theorem markRunning_link (w : Job → Bool) (g : Sequence → Sequence) (s : State) : (markRunning w g s).link = s.link := by unfold markRunning; split <;> (try split) <;> rfl
@[simp] theorem markRunning_chan (w : Job → Bool) (g : Sequence → Sequence) (s : State) (c : Chan) : (markRunning w g s).chan c = s.chan c := by cases c <;> simp [State.chan]

/-! ### abandonRunning -/

@[simp] theorem abandonRunning_now (w : Job → Bool) (s : State) : (abandonRunning w s).now = s.now := by unfold abandonRunning; simp
@[simp] theorem abandonRunning_pending (w : Job → Bool) (s : State) : (abandonRunning w s).pending = s.pending := by unfold abandonRunning; simp
@[simp] theorem abandonRunning_inReset (w : Job → Bool) (s : State) : (abandonRunning w s).inReset = s.inReset := by unfold abandonRunning; simp
@[simp] theorem abandonRunning_resetUntil (w : Job → Bool) (s : State) : (abandonRunning w s).resetUntil = s.resetUntil := by unfold abandonRunning; simp
@[simp] theorem abandonRunning_straps (w : Job → Bool) (s : State) : (abandonRunning w s).straps = s.straps := by unfold abandonRunning; simp
@[simp] theorem abandonRunning_loader (w : Job → Bool) (s : State) : (abandonRunning w s).loader = s.loader := by unfold abandonRunning; simp
@[simp] theorem abandonRunning_settings (w : Job → Bool) (s : State) : (abandonRunning w s).settings = s.settings := by unfold abandonRunning; simp
@[simp] theorem abandonRunning_mode (w : Job → Bool) (s : State) : (abandonRunning w s).mode = s.mode := by unfold abandonRunning; simp
@[simp] theorem abandonRunning_detectors (w : Job → Bool) (s : State) : (abandonRunning w s).detectors = s.detectors := by unfold abandonRunning; simp
@[simp] theorem abandonRunning_queue (w : Job → Bool) (s : State) : (abandonRunning w s).queue = s.queue := by unfold abandonRunning; simp
@[simp] theorem abandonRunning_baseline (w : Job → Bool) (s : State) : (abandonRunning w s).baseline = s.baseline := by unfold abandonRunning; simp
@[simp] theorem abandonRunning_chanA (w : Job → Bool) (s : State) : (abandonRunning w s).chanA = s.chanA := by unfold abandonRunning; simp
@[simp] theorem abandonRunning_chanB (w : Job → Bool) (s : State) : (abandonRunning w s).chanB = s.chanB := by unfold abandonRunning; simp
@[simp] theorem abandonRunning_seek (w : Job → Bool) (s : State) : (abandonRunning w s).seek = s.seek := by unfold abandonRunning; simp
@[simp] theorem abandonRunning_dormant (w : Job → Bool) (s : State) : (abandonRunning w s).dormant = s.dormant := by unfold abandonRunning; simp
@[simp] theorem abandonRunning_link (w : Job → Bool) (s : State) : (abandonRunning w s).link = s.link := by unfold abandonRunning; simp
@[simp] theorem abandonRunning_chan (w : Job → Bool) (s : State) (c : Chan) : (abandonRunning w s).chan c = s.chan c := by cases c <;> simp [State.chan]

/-! ### wake -/

@[simp] theorem wake_now (s : State) : (wake s).now = s.now := by unfold wake; split <;> rfl
@[simp] theorem wake_pending (s : State) : (wake s).pending = s.pending := by unfold wake; split <;> rfl
@[simp] theorem wake_inReset (s : State) : (wake s).inReset = s.inReset := by unfold wake; split <;> rfl
@[simp] theorem wake_resetUntil (s : State) : (wake s).resetUntil = s.resetUntil := by unfold wake; split <;> rfl
@[simp] theorem wake_straps (s : State) : (wake s).straps = s.straps := by unfold wake; split <;> rfl
@[simp] theorem wake_loader (s : State) : (wake s).loader = s.loader := by unfold wake; split <;> rfl
@[simp] theorem wake_settings (s : State) : (wake s).settings = s.settings := by unfold wake; split <;> rfl
@[simp] theorem wake_engine (s : State) : (wake s).engine = s.engine := by unfold wake; split <;> rfl
@[simp] theorem wake_detectors (s : State) : (wake s).detectors = s.detectors := by unfold wake; split <;> rfl
@[simp] theorem wake_queue (s : State) : (wake s).queue = s.queue := by unfold wake; split <;> rfl
@[simp] theorem wake_baseline (s : State) : (wake s).baseline = s.baseline := by unfold wake; split <;> rfl
@[simp] theorem wake_chanA (s : State) : (wake s).chanA = s.chanA := by unfold wake; split <;> rfl
@[simp] theorem wake_chanB (s : State) : (wake s).chanB = s.chanB := by unfold wake; split <;> rfl
@[simp] theorem wake_dormant (s : State) : (wake s).dormant = s.dormant := by unfold wake; split <;> rfl
@[simp] theorem wake_link (s : State) : (wake s).link = s.link := by unfold wake; split <;> rfl
@[simp] theorem wake_chan (s : State) (c : Chan) : (wake s).chan c = s.chan c := by cases c <;> simp [State.chan]

/-! ### What the updates set -/

@[simp] theorem elapse_now (dt : Nat) (s : State) : (elapse dt s).now = s.now + dt := rfl
@[simp] theorem reach_now (m : Nat) (s : State) : (reach m s).now = max s.now m := rfl
@[simp] theorem setChan_chan_same (c : Chan) (ch : Channel) (s : State) : (s.setChan c ch).chan c = ch := by cases c <;> rfl
@[simp] theorem setChan_chan_other (c : Chan) (ch : Channel) (s : State) : (s.setChan c ch).chan (otherChan c) = s.chan (otherChan c) := by
  cases c <;> rfl
@[simp] theorem setChan_self (c : Chan) (s : State) : s.setChan c (s.chan c) = s := by cases c <;> rfl
@[simp] theorem setChan_setChan (c : Chan) (a b : Channel) (s : State) : (s.setChan c a).setChan c b = s.setChan c b := by
  cases c <;> rfl
@[simp] theorem modChan_chan_same (c : Chan) (g : Channel → Channel) (s : State) : (s.modChan c g).chan c = g (s.chan c) := by
  cases c <;> rfl
@[simp] theorem modChan_chan_other (c : Chan) (g : Channel → Channel) (s : State) :
    (s.modChan c g).chan (otherChan c) = s.chan (otherChan c) := by
  cases c <;> rfl
@[simp] theorem setState_chan_same (c : Chan) (st : ChanState) (s : State) :
    (setState c st s).chan c = { s.chan c with state := st } := by
  cases c <;> rfl
@[simp] theorem setState_chan_other (c : Chan) (st : ChanState) (s : State) :
    (setState c st s).chan (otherChan c) = s.chan (otherChan c) := by
  cases c <;> rfl
@[simp] theorem dropRecords_chan_same (c : Chan) (s : State) :
    (dropRecords c s).chan c = { s.chan c with record := none, pen := none, cycles := none } := by
  cases c <;> rfl
@[simp] theorem setArming_chan_same (c : Chan) (a : Option Arming) (s : State) :
    (setArming c a s).chan c = { s.chan c with arming := a } := by
  cases c <;> rfl
@[simp] theorem modRecord_chan_same (c : Chan) (g : CycleRecord → CycleRecord) (s : State) :
    (modRecord c g s).chan c = { s.chan c with record := (s.chan c).record.map g } := by
  cases c <;> rfl
@[simp] theorem setDetector_detectors (f : Nat) (d : Detector) (s : State) :
    (setDetector f d s).detectors = s.detectors.set f d := rfl
@[simp] theorem unmask_detectors (f : Nat) (b : Bool) (s : State) :
    (unmask f b s).detectors = s.detectors.set f (if b then .present else .quiet) := rfl
@[simp] theorem enterPhase_running (ph : Phase) (q : Sequence) (s : State) :
    (enterPhase ph q s).engine.running
      = some { phase := ph, ends := s.now + phaseLength s.settings.listenLength q.job.freq ph, seq := q } := rfl
@[simp] theorem enterPhase_paths (ph : Phase) (q : Sequence) (s : State) :
    (enterPhase ph q s).engine.paths = s.engine.paths := rfl
@[simp] theorem goIdle_running (s : State) : (goIdle s).engine.running = none := rfl
@[simp] theorem goIdle_paths (s : State) : (goIdle s).engine.paths = s.engine.paths := rfl
@[simp] theorem sampleFor_running (v : List Period) (s : State) : (sampleFor v s).engine.running = s.engine.running := rfl
@[simp] theorem sampleUntilCut_running (l : Sampled) (s : State) :
    (sampleUntilCut l s).engine.running = s.engine.running := by
  simp only [sampleUntilCut]; split <;> rfl
@[simp] theorem queueFrame_link (f : Frame) (s : State) : (queueFrame f s).link = s.link.push f := rfl
@[simp] theorem withdraw_queue (w : Request → Bool) (s : State) : (withdraw w s).queue = s.queue.filter fun r => !w r := rfl
@[simp] theorem startSequence_running (ph : Phase) (q : Sequence) (s : State) :
    (startSequence ph q s).engine.running
      = some { phase := ph, ends := s.now + phaseLength s.settings.listenLength q.job.freq ph, seq := q } := by
  unfold startSequence enterPhase; by_cases h : ph = .drive <;> simp [h, setDetector]
@[simp] theorem startSequence_paths (ph : Phase) (q : Sequence) (s : State) :
    (startSequence ph q s).engine.paths = Engine.atReset.paths := by
  unfold startSequence enterPhase; by_cases h : ph = .drive <;> simp [h, setDetector]

/-! ### The channels -/

theorem chan_A (s : State) : s.chan .A = s.chanA := rfl
theorem chan_B (s : State) : s.chan .B = s.chanB := rfl

/-- A channel other than the one replaced. -/
theorem setChan_chan_ne {c d : Chan} (h : d ≠ c) (ch : Channel) (s : State) : (s.setChan c ch).chan d = s.chan d := by
  cases c <;> cases d <;> first | rfl | exact absurd rfl h

/-- A change of a channel is the replacement by its changed record. -/
theorem modChan_eq (c : Chan) (g : Channel → Channel) (s : State) : s.modChan c g = s.setChan c (g (s.chan c)) := rfl

end Sys2Proof.Machine
end

