-- ==== Sys2Proof/Laws/Engine.lean ====
section
/-! SUPPORT. What the end of a sequence, the receive paths and the abandoned mark come to. -/

namespace Sys2Proof.Machine

/-- DAMP_END is the end of the sequence at its moment with the mask lifted. -/
theorem exec_dampEnd {s : State} {r : Running} (foreign fall) (hr : s.inReset = false) (hrun : s.engine.running = some r) (hp : r.phase = .damp) :
    exec (.dampEnd foreign fall) s = .next (endSequence r.seq fall (unmask r.seq.job.freq foreign (reach r.ends s))) := by
  simp [exec, execDampEnd, unlessReset, hr, phaseEnds, hrun, hp, dampOver]

/-- One period of samples, path by path. -/
theorem addPeriod_eq_mapIdx : ∀ (ps : List Path) (v : Period), ps.length ≤ v.length → addPeriod ps v = ps.mapIdx (fun j p => addQuad p (v.getD j ⟨0,0,0,0⟩))
  | [], v, _ => by cases v <;> simp [addPeriod]
  | p :: ps, [], h => by simp at h
  | p :: ps, x :: v, h => by
    simp only [List.length_cons, Nat.add_le_add_iff_right] at h
    simp [addPeriod, List.mapIdx_cons, addPeriod_eq_mapIdx ps v h]

/-- The sums after some periods, path by path (R24, R25). -/
theorem listenSums_eq_mapIdx : ∀ (periods : List Period) (ps : List Path), (∀ v ∈ periods, ps.length ≤ v.length) → listenSums ps periods = ps.mapIdx (Path.heard periods)
  | [], ps, _ => by
    simp [listenSums]
    apply List.ext_getElem <;> simp [Path.heard]
  | v :: rest, ps, h => by
    have hv := addPeriod_eq_mapIdx ps v (h v (by simp))
    have ih := listenSums_eq_mapIdx rest (addPeriod ps v) (by
      intro w hw; rw [hv]; simpa using h w (by simp [hw]))
    simp only [listenSums, List.foldl_cons] at ih ⊢
    rw [ih, hv]
    apply List.ext_getElem
    · simp
    · intro i h1 h2
      simp [Path.heard, addQuad, sampleClips, Bool.or_assoc]
      constructor <;> omega

/-- The clipped marks of a period cut short, path by path (R25). -/
theorem markPaths_eq_mapIdx : ∀ (ps : List Path) (cut : List (List Sample)),
    markPaths ps cut = ps.mapIdx fun j p => markCut p (cut.getD j [])
  | [], cut => by cases cut <;> rfl
  | p :: ps, [] => by
    have h : ∀ q : Path, markCut q [] = q := fun q => by simp [markCut]
    have h2 : ps.mapIdx (fun _ q => q) = ps := by apply List.ext_getElem <;> simp
    simp [markPaths, h, List.mapIdx_cons, h2]
  | p :: ps, v :: cut => by simp [markPaths, List.mapIdx_cons, markPaths_eq_mapIdx ps cut]

/-- What the paths hold when a rise cuts LISTEN short (R25, R28). -/
theorem sampleUntilCut_eq {l : Sampled} {r : Running} {s : State} (h : RiseFinds l r s) (hp : r.phase = .listen)
    (h16 : s.engine.paths.length = 16) :
    sampleUntilCut l s = { s with engine := { s.engine with paths := s.engine.paths.mapIdx (Path.heardUntil l) } } := by
  obtain ⟨hs, _⟩ | ⟨_, hv, hl⟩ := h
  · simp [hs] at hp
  have hsum : listenSums s.engine.paths (l.periods.take s.settings.listenLength) = s.engine.paths.mapIdx (Path.heard l.periods) := by
    rw [List.take_of_length_le (by omega)]
    exact listenSums_eq_mapIdx _ _ fun v hm => by rw [h16, hv v hm]
  have hcut : ∀ ps : List Path, (ps.mapIdx (Path.heard l.periods)).mapIdx (fun j p => markCut p (l.cut.getD j [])) =
      ps.mapIdx (Path.heardUntil l) := by
    intro ps
    apply List.ext_getElem <;> simp [markCut, Path.heardUntil]
    intros; rfl
  simp only [sampleUntilCut, sampleFor, hsum]
  rcases hl with hl | ⟨hl, hc⟩
  · rw [if_pos hl]; simp only [markPaths_eq_mapIdx, hcut]
  · rw [if_neg (by simp [hl])]
    have : ∀ ps : List Path, ps.mapIdx (Path.heard l.periods) = ps.mapIdx (Path.heardUntil l) := by
      intro ps; apply List.ext_getElem <;> simp [Path.heardUntil, hc]
    rw [this]

/-- FIELD_RISE at the frequency of a sequence in SETTLE or LISTEN is the end of its listen, disturbed (R28). -/
theorem exec_fieldRise_of_finds {s : State} {r : Running} {f : Freq} {l : Sampled} (dt fall) (hr : s.inReset = false)
    (hrun : s.engine.running = some r) (hf : r.seq.job.freq = f.val) (hq : detectorAt f.val s = .quiet)
    (h : RiseFinds l r s) (h16 : s.engine.paths.length = 16) :
    exec (.fieldRise dt f l fall) s = .next (listenOver { r.seq with disturbed := true } fall
      { s with
        now := s.now + dt
        detectors := s.detectors.set f.val .present
        engine := { s.engine with paths := s.engine.paths.mapIdx (Path.heardUntil l) } }) := by
  have hq' : detectorAt f.val (elapse dt s) = .quiet := hq
  have hrun' : (setDetector f.val .present (elapse dt s)).engine.running = some r := hrun
  have hx : exec (.fieldRise dt f l fall) s = .next (riseReported f.val l fall (setDetector f.val .present (elapse dt s))) := by
    simp [exec, execFieldRise, unlessReset, hr, fieldRises, hq']
  rw [hx, riseReported, hrun']
  simp only [hf, if_true]
  rcases h with ⟨hs, rfl⟩ | h
  · have : ∀ ps : List Path, ps.mapIdx (Path.heardUntil ⟨[], []⟩) = ps := by
      intro ps; apply List.ext_getElem <;> simp [Path.heardUntil, Path.heard]
    rw [hs, this]; rfl
  · have hu := sampleUntilCut_eq (l := l) (r := r) (s := setDetector f.val .present (elapse dt s)) (.inr h) h.1 h16
    rw [h.1]; dsimp only; rw [hu]; rfl

/-- LISTEN_END of an undriven sequence is the end of the sequence with its periods heard. -/
theorem exec_listenEnd_undriven {s : State} {r : Running} (periods fall) (hr : s.inReset = false) (hrun : s.engine.running = some r) (hp : r.phase = .listen) (hd : r.seq.job.driven = false)
   (h16 : s.engine.paths.length = 16) (hl : periods.length = s.settings.listenLength) (hv : ∀ v ∈ periods, v.length = 16) :
    exec (.listenEnd periods fall) s = .next (submit (conclude r.seq (sampleFor periods (reach r.ends s))).2 (grant (fallFirst fall (goIdle (conclude r.seq (sampleFor periods (reach r.ends s))).1)))) 
    ∧ goIdle (sampleFor periods (reach r.ends s)) = s.heardOut r periods := by
  constructor
  · simp [exec, execListenEnd, unlessReset, hr, phaseEnds, hrun, hp, listenEnds, listenOver, hd, endSequence]
  · have : listenSums s.engine.paths periods = s.engine.paths.mapIdx (Path.heard periods) := listenSums_eq_mapIdx _ _ (by simp_all)
    simp [goIdle, sampleFor, reach, State.heardOut, ← hl, this]

/-- The abandoned mark, as an update of the engine. -/
theorem abandonRunning_eq (w : Job → Bool) (s : State) : abandonRunning w s =
    { s with engine := { s.engine with running := s.engine.running.map fun r : Running => if w r.seq.job then { r with seq := { r.seq with abandoned := true } } else r } } := by
  cases s with | mk a b c d e f g h i j k l m n o p q =>
  cases i with | mk run paths =>
  cases run with
  | none => rfl
  | some r =>
    by_cases hw : w r.seq.job = true <;> simp [abandonRunning, markRunning, hw]

/-- An abandoned mark leaves no trace once the engine is IDLE. -/
theorem goIdle_abandonRunning (w) (s : State) : goIdle (abandonRunning w s) = goIdle s := by
  unfold abandonRunning markRunning; split
  · split <;> rfl
  · rfl

/-- The yield test does not look at the engine. -/
theorem goIdle_yieldTest (c ct n k) (s : State) : goIdle (yieldTest c ct n k s) = yieldTest c ct n k (goIdle s) := by
  unfold yieldTest
  cases c <;> (split_ifs <;> first | rfl | skip)
  all_goals simp_all [goIdle]

/-! ### The arbiter (R32 to R34) -/

/-- The requester of a request is its channel and its work (R32). -/
theorem sameRequester_iff (a b : Request) : sameRequester a b = true ↔ SameRequester a b := by
  obtain ⟨c, x⟩ := a; obtain ⟨d, y⟩ := b
  cases c <;> cases d <;> cases x <;> cases y <;> simp [sameRequester, SameRequester, Ask.work]

/-- Tracking is the tip and the collar. -/
theorem tracks_eq (a : Ask) : a.tracks = decide (a.work ≠ .seek) := by cases a <;> rfl

/-- When a request is eligible (R34). -/
theorem eligible_iff (s : State) (r : Request) : eligible s r = true ↔
    if r.ask.work = .seek then (s.chan r.ch).state = .seek else (s.chan r.ch).state = .hold := by
  unfold eligible; rw [tracks_eq]
  by_cases h : r.ask.work = .seek <;> simp [h, State.inHold, State.inSeek]

/-- The oldest eligible request of a class is chosen; the requests of its class passed over leave the queue (R33, R34). -/
theorem pick_chosen (cls ok : Request → Bool) : ∀ (q : List Request) (i : Nat) (r : Request), q[i]? = some r → cls r = true → ok r = true →
    (∀ j x, j < i → q[j]? = some x → cls x = true → ok x = false) →
    pick cls ok q = (some r, (q.take i).filter (fun x => !cls x) ++ q.drop (i + 1))
  | [], i, r, h, _, _, _ => by simp at h
  | a :: q, 0, r, h, hc, ho, _ => by
    simp at h; subst h; simp [pick, hc, ho]
  | a :: q, i + 1, r, h, hc, ho, hn => by
    have ih := pick_chosen cls ok q i r (by simpa using h) hc ho (fun j x hj hx => hn (j + 1) x (by omega) (by simpa using hx))
    have ha := hn 0 a (by omega) (by simp)
    unfold pick
    by_cases hca : cls a = true
    · simp [hca, ha hca, ih]
    · simp [hca, ih]

/-- Without an eligible request of a class every request of it leaves the queue (R33, R34). -/
theorem pick_none (cls ok : Request → Bool) : ∀ (q : List Request), (∀ x ∈ q, cls x = true → ok x = false) →
    pick cls ok q = (none, q.filter (fun x => !cls x))
  | [], _ => rfl
  | a :: q, hn => by
    have ih := pick_none cls ok q (fun x hx => hn x (by simp [hx]))
    unfold pick
    by_cases hca : cls a = true
    · simp [hca, hn a (by simp) hca, ih]
    · simp [hca, ih]

end Sys2Proof.Machine
end

