-- ==== Sys2Proof/Laws/Loader.lean ====
section
/-! SUPPORT. The EEPROM's pins within a transfer. -/

namespace Sys2Proof.Machine

/-- The pins at a time within a bit of the transfer (R162, log 23). -/
theorem eepromPins_of_reading (m ends bit d : Nat) (s : State) (h : s.loader.readEnds = some ends) (hb : m < ends) (hm : readTime - (ends - m) = usec bit + d) (hd : d < usec 1) :
   s.eepromPins m = { select := false, clock := decide (usec 1 ≤ 2 * d), data := match sentBits[bit]? with | some b => b | none => Config.idleData m } := by
  have hu : usec bit = usec 1 * bit := by unfold usec; rw [Nat.mul_one]
  have hmod : (usec bit + d) % usec 1 = d := by rw [hu, Nat.mul_add_mod, Nat.mod_eq_of_lt hd]
  have hdiv : (usec bit + d) / usec 1 = bit := by
    rw [hu, Nat.mul_add_div (by unfold usec; decide), Nat.div_eq_of_lt hd, Nat.add_zero]
  simp only [State.eepromPins, h, hb, if_true, hm, readClock, readData, hmod, hdiv] <;> rfl

end Sys2Proof.Machine
end

