-- ==== Sys2Proof/Laws/Profiles.lean ====
section
/-! SUPPORT. What dead fill, entries placed into a profile, border merging and the choice of a driven loop come to (R20, R62 to R67). -/

namespace Sys2Proof.Machine

/-! ### Dead fill (R67) -/

/-- The first live place of a run. -/
theorem findSome_liveRun : ∀ l : List Entry, (liveRun l).findSome? id = (l.find? Entry.live).map fun e => (e.amp, e.clipped)
  | [] => rfl
  | e :: l => by
    by_cases h : e.source = .filled
    · simpa [liveRun, Entry.live, h] using findSome_liveRun l
    · simp [liveRun, Entry.live, h]

/-- A list filled after a list that precedes it. -/
theorem fillFrom_eq_mapIdx : ∀ (es pre : List Entry),
    fillFrom (pre.reverse.find? Entry.live) es = es.mapIdx fun i e =>
      { e with
        amp := (filledPlace (liveRun (pre ++ es)) (pre.length + i)).1
        clipped := (filledPlace (liveRun (pre ++ es)) (pre.length + i)).2 }
  | [], _ => rfl
  | e :: es, pre => by
    have ih := fillFrom_eq_mapIdx es (pre ++ [e])
    have hat : (liveRun (pre ++ e :: es))[pre.length]?.join = if e.source = .filled then none else some (e.amp, e.clipped) := by
      simp [liveRun]
    have hbelow : ((liveRun (pre ++ e :: es)).take pre.length).reverse.findSome? id =
        (pre.reverse.find? Entry.live).map fun e => (e.amp, e.clipped) := by
      rw [← findSome_liveRun]; simp [liveRun]
    have habove : ((liveRun (pre ++ e :: es)).drop (pre.length + 1)).findSome? id =
        (es.find? Entry.live).map fun e => (e.amp, e.clipped) := by
      have : liveRun (pre ++ e :: es) = liveRun (pre ++ [e]) ++ liveRun es := by simp [liveRun]
      rw [← findSome_liveRun, this, List.drop_left' (by simp [liveRun])]
    have hrest : ∀ i, pre.length + (i + 1) = (pre ++ [e]).length + i := fun i => by simp; omega
    rw [List.mapIdx_cons]
    simp only [hrest, Nat.add_zero]
    have happ : pre ++ e :: es = (pre ++ [e]) ++ es := by simp
    by_cases h : e.source = .filled
    · have hl : e.live = false := by simp [Entry.live, h]
      rw [List.reverse_append, List.reverse_singleton, List.singleton_append, List.find?_cons_of_neg (by simp [hl])] at ih
      simp only [fillFrom, hl, Bool.false_eq_true, if_false, ih, ← happ, List.cons.injEq, and_true]
      simp only [filledPlace, hat, h, if_true, hbelow, habove, fillEntry]
      cases pre.reverse.find? Entry.live <;> cases es.find? Entry.live <;> rfl
    · have hl : e.live = true := by simp [Entry.live, h]
      rw [List.reverse_append, List.reverse_singleton, List.singleton_append, List.find?_cons_of_pos (by simp [hl])] at ih
      simp only [fillFrom, hl, if_true, ih, ← happ, List.cons.injEq, and_true]
      simp only [filledPlace, hat, h, if_false]

/-- Every dead entry of a profile filled, place by place (R67). -/
theorem fillDead_eq_mapIdx (es : List Entry) : fillDead es = es.mapIdx fun i e =>
    { e with amp := (filledPlace (liveRun es) i).1, clipped := (filledPlace (liveRun es) i).2 } := by
  simpa [fillDead] using fillFrom_eq_mapIdx es []

/-! ### Entries in ascending order (R65) -/

/-- A list ascending in loops. -/
abbrev Ascending (es : List Entry) : Prop := es.Pairwise fun a b => a.loop < b.loop

/-- What an ascending list holds once an entry has been placed into it: the entry too, unless its loop was there. -/
theorem mem_insertEntry {e : Entry} : ∀ {es : List Entry}, Ascending es →
    ∀ x, x ∈ insertEntry e es ↔ x ∈ es ∨ (x = e ∧ ∀ d ∈ es, d.loop ≠ e.loop)
  | [], _, x => by simp [insertEntry]
  | y :: es, h, x => by
    obtain ⟨hy, hes⟩ := List.pairwise_cons.1 h
    rw [insertEntry]
    split
    · rename_i hlt
      have : ∀ d ∈ y :: es, d.loop ≠ e.loop := by
        intro d hd
        rcases List.mem_cons.1 hd with rfl | hd
        · omega
        · have := hy d hd; omega
      simp only [List.mem_cons] at this ⊢
      constructor
      · rintro (rfl | hx)
        · exact .inr ⟨rfl, this⟩
        · exact .inl hx
      · rintro (hx | ⟨rfl, _⟩)
        · exact .inr hx
        · exact .inl rfl
    · rename_i hlt
      split
      · rename_i heq
        constructor
        · exact .inl
        · rintro (hx | ⟨_, hx⟩)
          · exact hx
          · exact absurd heq.symm (hx y (List.mem_cons_self ..))
      · rename_i hne
        simp only [List.mem_cons, mem_insertEntry hes x, forall_eq_or_imp]
        constructor
        · rintro (hx | hx | ⟨hx, hd⟩)
          · exact .inl (.inl hx)
          · exact .inl (.inr hx)
          · exact .inr ⟨hx, fun h => hne h.symm, hd⟩
        · rintro ((hx | hx) | ⟨hx, _, hd⟩)
          · exact .inl hx
          · exact .inr (.inl hx)
          · exact .inr (.inr ⟨hx, hd⟩)

/-- Placing an entry keeps a list ascending. -/
theorem ascending_insertEntry {e : Entry} : ∀ {es : List Entry}, Ascending es → Ascending (insertEntry e es)
  | [], _ => by simp [insertEntry]
  | y :: es, h => by
    obtain ⟨hy, hes⟩ := List.pairwise_cons.1 h
    rw [insertEntry]
    split
    · rename_i hlt
      refine List.pairwise_cons.2 ⟨fun d hd => ?_, h⟩
      rcases List.mem_cons.1 hd with rfl | hd
      · exact hlt
      · exact Nat.lt_trans hlt (hy d hd)
    · rename_i hlt
      split
      · exact h
      · rename_i hne
        refine List.pairwise_cons.2 ⟨fun d hd => ?_, ascending_insertEntry hes⟩
        rcases (mem_insertEntry hes d).1 hd with hd | ⟨rfl, _⟩
        · exact hy d hd
        · omega

/-- Entries of distinct loops placed one after the other into an ascending list that holds none of these loops (R66). -/
theorem mem_foldl_insertEntry : ∀ {new es : List Entry}, Ascending es → new.Pairwise (fun a b => a.loop ≠ b.loop) →
    (∀ n ∈ new, ∀ d ∈ es, d.loop ≠ n.loop) →
    Ascending (new.foldl (fun l e => insertEntry e l) es) ∧
      ∀ x, x ∈ new.foldl (fun l e => insertEntry e l) es ↔ x ∈ es ∨ x ∈ new
  | [], es, h, _, _ => by simp [h]
  | n :: new, es, h, hd, hf => by
    obtain ⟨hn, hnew⟩ := List.pairwise_cons.1 hd
    have hmem := mem_insertEntry (e := n) h
    have hfree : ∀ d ∈ es, d.loop ≠ n.loop := hf n (List.mem_cons_self ..)
    obtain ⟨h1, h2⟩ := mem_foldl_insertEntry (new := new) (ascending_insertEntry (e := n) h) hnew (by
      intro m hm d hd'
      rcases (hmem d).1 hd' with hd' | ⟨rfl, _⟩
      · exact hf m (List.mem_cons_of_mem _ hm) d hd'
      · exact hn m hm)
    refine ⟨h1, fun x => ?_⟩
    rw [List.foldl_cons, h2 x, hmem x, List.mem_cons]
    constructor
    · rintro ((hx | ⟨hx, _⟩) | hx)
      · exact .inl hx
      · exact .inr (.inl hx)
      · exact .inr (.inr hx)
    · rintro (hx | hx | hx)
      · exact .inl (.inl hx)
      · exact .inl (.inr ⟨hx, hfree⟩)
      · exact .inr hx

/-! ### Border entries (R63, R64) -/

/-- The list holds an entry for the loop. -/
theorem holdsLoop_iff (es : List Entry) (k : Nat) : holdsLoop es k = true ↔ ∃ d ∈ es, d.loop = k := by
  simp [holdsLoop]

/-- One place of a BORDER merged (R63). -/
theorem mem_mergeEntry {st : Straps} {ax : Axis} {w : Want} {clipped : Bool} {es : List Entry} (h : Ascending es) (v : Nat × Nat) :
    Ascending (mergeEntry st ax w clipped es v) ∧ ∀ x, x ∈ mergeEntry st ax w clipped es v ↔
      x ∈ es ∨ (x = { loop := v.1, amp := 4 * v.2, source := .border, clipped := clipped } ∧
        wanted st ax w v.1 = true ∧ ∀ d ∈ es, d.loop ≠ v.1) := by
  unfold mergeEntry
  by_cases hw : wanted st ax w v.1 = true
  · by_cases hh : holdsLoop es v.1 = true
    · obtain ⟨d, hd, hdl⟩ := (holdsLoop_iff es v.1).1 hh
      simp only [hw, hh, Bool.not_true, Bool.and_false, Bool.false_eq_true, if_false]
      refine ⟨h, fun x => ⟨.inl, ?_⟩⟩
      rintro (hx | ⟨_, _, hx⟩)
      · exact hx
      · exact absurd hdl (hx d hd)
    · simp only [hw, hh, Bool.not_false, Bool.and_self, if_true]
      refine ⟨ascending_insertEntry h, fun x => ?_⟩
      rw [mem_insertEntry h]; simp
  · simp [hw, h]

/-- The places of a BORDER merged one after the other, their loops distinct (R63). -/
theorem mem_foldl_mergeEntry {st : Straps} {ax : Axis} {w : Want} {clipped : Bool} : ∀ {vs : List (Nat × Nat)} {es : List Entry},
    Ascending es → vs.Pairwise (fun a b => a.1 ≠ b.1) →
    Ascending (vs.foldl (mergeEntry st ax w clipped) es) ∧ ∀ x, x ∈ vs.foldl (mergeEntry st ax w clipped) es ↔
      x ∈ es ∨ ∃ v ∈ vs, x = { loop := v.1, amp := 4 * v.2, source := .border, clipped := clipped } ∧
        wanted st ax w v.1 = true ∧ ∀ d ∈ es, d.loop ≠ v.1
  | [], es, h, _ => by simp [h]
  | v :: vs, es, h, hd => by
    obtain ⟨hv, hvs⟩ := List.pairwise_cons.1 hd
    obtain ⟨h1, h2⟩ := mem_mergeEntry (st := st) (ax := ax) (w := w) (clipped := clipped) h v
    obtain ⟨h3, h4⟩ := mem_foldl_mergeEntry (st := st) (ax := ax) (w := w) (clipped := clipped) h1 hvs
    refine ⟨h3, fun x => ?_⟩
    rw [List.foldl_cons, h4 x, h2 x]
    simp only [List.mem_cons, exists_eq_or_imp, or_assoc]
    refine or_congr_right (or_congr_right (exists_congr fun u => and_congr_right fun hu => and_congr_right fun _ =>
      and_congr_right fun _ => ⟨fun hx d hd => hx d ((h2 d).2 (.inl hd)), fun hx d hd => ?_⟩))
    rcases (h2 d).1 hd with hd | ⟨rfl, _⟩
    · exact hx d hd
    · exact hv u hu

/-- The places of a BORDER with their loops (R63). -/
theorem mem_namedPlaces (first count : Nat) (amps : List Nat) (v : Nat × Nat) :
    v ∈ namedPlaces first count amps ↔ ∃ i, i < count ∧ v.1 = first + i ∧ amps[i]? = some v.2 := by
  have hat : ∀ (i : Nat) (u : Nat × Nat),
      (((List.range amps.length).zip amps).take count)[i]? = some u ↔ i < count ∧ u.1 = i ∧ amps[i]? = some u.2 := by
    intro i u
    rw [List.getElem?_take]
    split
    · rename_i hi
      rw [List.getElem?_zip_eq_some]
      constructor
      · rintro ⟨h, h2⟩
        obtain ⟨_, h⟩ := List.getElem?_eq_some_iff.1 h
        exact ⟨hi, by rw [← h]; simp, h2⟩
      · rintro ⟨_, h, h2⟩
        exact ⟨by rw [h]; simp [(List.getElem?_eq_some_iff.1 h2).1], h2⟩
    · rename_i hi
      exact ⟨nofun, fun h => absurd h.1 hi⟩
  unfold namedPlaces
  rw [List.mem_map]
  constructor
  · rintro ⟨u, hm, rfl⟩
    obtain ⟨i, hu⟩ := List.mem_iff_getElem?.1 hm
    obtain ⟨h1, h2, h3⟩ := (hat i u).1 hu
    exact ⟨i, h1, by simp [h2], h3⟩
  · rintro ⟨i, h1, h2, h3⟩
    exact ⟨(i, v.2), List.mem_iff_getElem?.2 ⟨i, (hat i _).2 ⟨h1, rfl, h3⟩⟩, by rw [← h2]⟩

/-- The places of a BORDER name distinct loops. -/
theorem namedPlaces_distinct (first count : Nat) (amps : List Nat) :
    (namedPlaces first count amps).Pairwise fun a b => a.1 ≠ b.1 := by
  unfold namedPlaces
  rw [List.pairwise_map]
  refine List.Pairwise.sublist (List.take_sublist ..) ?_
  have h : ((List.range amps.length).zip amps).map Prod.fst = List.range amps.length := by
    rw [List.map_fst_zip]; simp
  have h2 : ((List.range amps.length).zip amps).Pairwise fun a b => a.1 ≠ b.1 := by
    have := List.nodup_range (n := amps.length)
    rw [← h, List.Nodup, List.pairwise_map] at this
    exact this
  exact h2.imp fun {a b} hne => by omega

/-! ### Own entries (R66) -/

/-- The surface number of a local loop, in the words of the statements (R7). -/
theorem toSurface_eq_loopAt (st : Straps) (ax : Axis) (i : Nat) : toSurface st ax i = loopAt st ax i := by
  cases ax <;> rfl

/-- The eight entries of an axis, place by place in ascending surface order (R8). -/
theorem ownEntries_eq_map (s : State) (ax : Axis) (f w : Nat) : ownEntries s ax f w = (List.range 8).map fun m => ownEntry s ax f w (if mirrored s.straps ax then 7 - m else m) := by
  unfold ownEntries surfaceOrder
  cases mirrored s.straps ax
  · simp
  · have : (List.range 8).reverse = (List.range 8).map fun m => 7 - m := by decide
    rw [if_pos rfl, this, List.map_map]; rfl

/-- An entry by its reading: own with it, filled without one (R66). -/
theorem ownEntry_eq_of_reading (s : State) (ax : Axis) (f w n : Nat) : ownEntry s ax f w n = match readingOf s f ax w n with
     | some v => { loop := loopAt s.straps ax (w + n), amp := v.1, source := .own, clipped := v.2 }
     | none => { loop := loopAt s.straps ax (w + n), amp := 0, source := .filled, clipped := false } := by
  cases ax <;> simp only [ownEntry, readingOf, tileLoop, pathIndex, pathOf, amplitude, trimOf, toSurface_eq_loopAt] <;> split <;> simp_all

/-- No reading is used of a dead loop alone (R55). -/
theorem readingOf_eq_none (s : State) (ax : Axis) (f w n : Nat) : readingOf s f ax w n = none ↔ deadLoop s.settings (tileLoop ax (w + n)) = true := by
  cases ax <;> simp [readingOf, tileLoop]

/-! ### The loop driven (R20) -/

/-- The nearest of some loops in ascending order, the first of two equally near. -/
theorem foldl_nearer (p : Nat) : ∀ (ks : List Nat) (k : Nat), (k :: ks).Pairwise (· < ·) →
    let n := ks.foldl (nearer p) k
    n ∈ k :: ks ∧ ∀ j ∈ k :: ks, (n - p) + (p - n) < (j - p) + (p - j) ∨ ((n - p) + (p - n) = (j - p) + (p - j) ∧ n ≤ j)
  | [], k, _ => by simp
  | a :: ks, k, h => by
    obtain ⟨h1, h2⟩ := List.pairwise_cons.1 h
    have hka := h1 a (List.mem_cons_self ..)
    have hor : nearer p k a = k ∨ nearer p k a = a := by unfold nearer; split <;> simp
    have hb : (nearer p k a - p) + (p - nearer p k a) ≤ (k - p) + (p - k) ∧
        (nearer p k a - p) + (p - nearer p k a) ≤ (a - p) + (p - a) ∧
        (nearer p k a = a → (a - p) + (p - a) < (k - p) + (p - k)) := by
      unfold nearer; split <;> (refine ⟨?_, ?_, ?_⟩ <;> omega)
    have hpw : (nearer p k a :: ks).Pairwise (· < ·) := by
      rcases hor with h | h <;> rw [h]
      · exact List.pairwise_cons.2 ⟨fun d hd => h1 d (List.mem_cons_of_mem _ hd), (List.pairwise_cons.1 h2).2⟩
      · exact h2
    obtain ⟨i1, i2⟩ := foldl_nearer p ks (nearer p k a) hpw
    rw [List.foldl_cons]
    refine ⟨?_, ?_⟩
    · rcases List.mem_cons.1 i1 with i1 | i1
      · rcases hor with h | h <;> rw [i1, h] <;> simp
      · exact List.mem_cons_of_mem _ (List.mem_cons_of_mem _ i1)
    · have hn := i2 _ (List.mem_cons_self ..)
      intro j hj
      rcases List.mem_cons.1 hj with rfl | hj
      · rcases hor with h | h
        · rw [h] at hn ⊢; exact hn
        · have := hb.2.2 h; rw [h] at hn ⊢; omega
      · rcases List.mem_cons.1 hj with rfl | hj
        · rcases hor with h | h
          · rw [h] at hn ⊢; rw [h] at hb; omega
          · rw [h] at hn ⊢; exact hn
        · exact i2 j (List.mem_cons_of_mem _ hj)

end Sys2Proof.Machine
end

