-- ==== Sys2Proof/Laws/Tracker.lean ====
section
/-! SUPPORT. What leaving a channel state, moving to another and starting a cycle come to. -/

namespace Sys2Proof.Machine

/-- A border of the tile is passed by at least d units (R12). -/
theorem pastBorder_iff (st : Straps) (ax : Axis) (d v : Nat) : pastBorder st ax d v = true ↔
   v + d ≤ place st ax * tileUnits ax ∨ place st ax * tileUnits ax + (tileUnits ax - 1) + d ≤ v := by
  unfold pastBorder; rw [Bool.or_eq_true, decide_eq_true_iff, decide_eq_true_iff]

/-- Abandoning a cycle, as one update (R120). -/
theorem abandonCycle_eq (c : Chan) (s : State) : abandonCycle c s =
    { s with
      queue := s.queue.filter fun q => !(q.ch == c && q.ask.tracks)
      engine := { s.engine with
        running := s.engine.running.map fun r : Running =>
          if r.seq.job.tracks c then { r with seq := { r.seq with abandoned := true } } else r } }.setChan c
      { s.chan c with
        abandoned :=
          match (s.chan c).current with
          | some cy =>
              if s.engine.running.any fun r : Running => r.seq.job.tracks c then some cy.forsaken
              else (s.chan c).abandoned
          | none => (s.chan c).abandoned } := by
  have hrun : isRunning (Job.tracks c) (withdraw (Request.tracksFor c) s) = s.engine.running.any fun r : Running => r.seq.job.tracks c := by
    unfold isRunning; simp only [withdraw]; cases s.engine.running <;> simp
  unfold abandonCycle
  simp only [hrun, abandonRunning_eq]
  cases c <;> simp only [State.modChan, State.chan, State.setChan, withdraw, Request.tracksFor, Channel.current]
  · generalize s.chanA = ch
    obtain ⟨a1,a2,a3,a4,a5,a6,a7,a8⟩ := ch
    cases a6 with
    | none => rfl
    | some cs => cases hc : cs.current <;> simp [hc]; split <;> rfl
  · generalize s.chanB = ch
    obtain ⟨a1,a2,a3,a4,a5,a6,a7,a8⟩ := ch
    cases a6 with
    | none => rfl
    | some cs => cases hc : cs.current <;> simp [hc]; split <;> rfl

/-- Giving up a pass, in the words of the statements (R102). -/
theorem abandonPass_eq_unsought (c : Chan) (s : State) : abandonPass c s = s.unsought c := by
  unfold abandonPass State.unsought
  cases hp : s.seek.pass with
  | none => simp
  | some p =>
    by_cases h : p.ch = c
    · have : ∀ j : Job, (j.seeks c = true) = (j = .seekX c ∨ j = .seekY c) := by
        intro j; cases j <;> simp [Job.seeks]
      simp [h, endPass, abandonRunning_eq, withdraw, Request.seeksFor, seekInterval, this]
    · simp [h]

/-- Leaving SEEK, DEFER, CLAIM or STANDBY for another state. -/
theorem moveTo_eq_moved (c : Chan) (st : ChanState) (s : State) (h : (s.chan c).state.unheld) : moveTo c st s = s.moved c st := by
  unfold moveTo State.moved leaveState
  obtain ⟨h1, h2, h3⟩ := h
  cases hs : (s.chan c).state with
  | seek => simp [abandonPass_eq_unsought]; cases c <;> rfl
  | absent => exact absurd hs h1
  | hold => exact absurd hs h2
  | yield t => exact absurd hs (h3 t)
  | _ => simp; cases c <;> rfl

/-- Leaving HOLD or YIELD for another state. -/
theorem moveTo_eq_released (c : Chan) (st : ChanState) (s : State) (h : s.holding c = true) : moveTo c st s = s.released c st := by
  have key : moveTo c st s = { setState c st (dropRecords c (abandonCycle c s)) with dormant := none } := by
    unfold moveTo leaveState; unfold State.holding at h
    cases hs : (s.chan c).state <;> simp_all
  rw [key, abandonCycle_eq]
  unfold State.released
  cases c <;> simp [State.modChan, State.setChan, State.chan, dropRecords, setState, Cycle.forsaken] <;> rfl

/-- With an enabled channel outside SEEK the dormant timer is stopped (R93). -/
theorem timeDormant_of_not_seek (c : Chan) (s : State) (he : s.enabled c = true) (hs : (s.chan c).state ≠ .seek) : timeDormant s = { s with dormant := none } := by
  have : s.allSeek = false := by
    unfold State.allSeek State.inSeek
    cases c <;> simp_all [State.chan, State.enabled]
  simp [timeDormant, this]

/-- What a move sets. -/
theorem moved_chan (c st) (s : State) : ((s.moved c st).chan c).state = st ∧ (s.moved c st).dormant = none ∧ (s.moved c st).settings = s.settings := by
  unfold State.moved State.unsought State.entered; cases c <;> (split <;> (try split) <;> simp [State.setChan, State.chan])

/-- What a release sets. -/
theorem released_chan (c st) (s : State) : ((s.released c st).chan c).state = st ∧ (s.released c st).dormant = none ∧ (s.released c st).settings = s.settings := by
  unfold State.released; cases c <;> simp [State.setChan, State.chan]

theorem timeDormant_moved (c st) (s : State) (he : s.enabled c = true) (hs : st ≠ .seek) : timeDormant (s.moved c st) = s.moved c st := by
  obtain ⟨h1, h2, h3⟩ := moved_chan c st s
  rw [timeDormant_of_not_seek c _ (by cases c <;> simp_all [State.enabled]) (by rw [h1]; exact hs)]
  rw [← h2]

theorem timeDormant_released (c st) (s : State) (he : s.enabled c = true) (hs : st ≠ .seek) : timeDormant (s.released c st) = s.released c st := by
  obtain ⟨h1, h2, h3⟩ := released_chan c st s
  rw [timeDormant_of_not_seek c _ (by cases c <;> simp_all [State.enabled]) (by rw [h1]; exact hs)]
  rw [← h2]

/-- What waking leaves alone. -/
theorem woken_chan (c) (s : State) : (s.woken.chan c) = s.chan c ∧ s.woken.enabled c = s.enabled c ∧ s.woken.holding c = s.holding c ∧ s.woken.straps = s.straps ∧ s.woken.now = s.now ∧ s.woken.settings = s.settings := by
  unfold State.woken; split <;> cases c <;> simp [State.chan, State.enabled, State.holding]

/-- The start of a cycle, in the words of the statements (R113). -/
theorem startCycle_eq_noticed (c : Chan) (s : State) (cs pen) (h1 : (s.chan c).cycles = some cs) (h2 : (s.chan c).pen = some pen) :
    startCycle c s = s.noticed c cs.nextNumber cs pen (cs.byTake && cs.number.isNone) := by
  cases c <;> simp_all [startCycle, State.noticed, State.modChan, State.setChan, State.chan, queueFrame, newCycle] <;> rfl

/-- What the start of a cycle leaves alone. -/
theorem noticed_dormant (c n cs pen h) (s : State) : (s.noticed c n cs pen h).dormant = s.dormant ∧ ((s.noticed c n cs pen h).chan c).state = (s.chan c).state ∧ (s.noticed c n cs pen h).settings = s.settings := by
  cases c <;> simp [State.noticed, State.setChan, State.chan]

/-- Entering SEEK from HOLD or YIELD: a pass begins at once when both seek timers are stopped (R93, R96, R137). -/
theorem enterSeek_of_holding (c : Chan) (s : State) (h : s.holding c = true) :
    enterSeek c s = match s.seek.timer, s.seek.backoff with
      | none, none => beginPass (s.released c .seek).timed
      | _, _ => ((s.released c .seek).timed, none) := by
  have key : timeDormant (setState c .seek (leaveState c s)) = (s.released c .seek).timed := by
    have h1 := moveTo_eq_released c .seek s h
    have : ∀ X : State, timeDormant X = timeDormant { X with dormant := none } := fun X => rfl
    rw [this]
    unfold moveTo at h1; rw [h1]; rfl
  have hk : (s.released c .seek).timed.seek = s.seek := by cases c <;> rfl
  unfold enterSeek; simp only [key, hk] <;> rfl

end Sys2Proof.Machine
end

