-- ==== Sys2Proof/Laws/Receive.lean ====
section
/-! SUPPORT. What the reception of a whole frame comes to, and what the own queue keeps. -/

namespace Sys2Proof.Machine

/-- Data symbols gather in the frame in reception (R142). -/
theorem receiveSymbols_data : ∀ (l : List Byte) (o : List Byte) (s : State), s.link.up = true → s.link.reception = some o → s.link.silence = some (s.now + usec 10) → o.length + l.length ≤ 24 →
    receiveSymbols (l.map .data) s = setReception (some (o ++ l)) s
  | [], o, s, hu, hr, hsi, _ => by
    simp [receiveSymbols, setReception, ← hr]
  | b :: l, o, s, hu, hr, hsi, hlen => by
    simp only [List.length_cons] at hlen
    have h1 : receiveSymbol s (.data b) = setReception (some (o ++ [b])) s := by
      simp only [receiveSymbol, reduceCtorEq, if_false]
      simp [heardSymbol, hu, symbolUp, hr, (by omega : o.length < 24), setReception, ← hsi]
    simp only [receiveSymbols, List.map_cons, List.foldl_cons] at *
    rw [h1]
    have := receiveSymbols_data l (o ++ [b]) (setReception (some (o ++ [b])) s) hu rfl hsi (by simp; omega)
    simp only [receiveSymbols] at this
    rw [this]; simp [setReception]

/-- A frame of 5 to 24 octets on an UP link reaches the checks whole (R142). -/
theorem receiveOctets_eq_receiveFrame (o : List Byte) (dt : Nat) (s : State) (hu : s.link.up = true) (h5 : 5 ≤ o.length) (h24 : o.length ≤ 24) :
    receiveOctets o (elapse dt s) = receiveFrame o (s.heardLink dt) := by
  unfold receiveOctets frameSymbols receiveSymbols
  simp only [List.cons_append, List.foldl_cons, List.foldl_append, List.foldl_nil]
  have h1 : receiveSymbol (elapse dt s) .start = setReception (some []) (s.heardLink dt) := by
    simp [receiveSymbol, heardSymbol, hu, symbolUp, elapse, State.heardLink, setReception]
  rw [h1]
  have h2 := receiveSymbols_data o [] (setReception (some []) (s.heardLink dt)) hu rfl rfl (by simpa using h24)
  simp only [receiveSymbols] at h2
  rw [h2]
  simp [receiveSymbol, heardSymbol, hu, symbolUp, State.heardLink, setReception, h5]

/-- Octets of a kind begin with its value and have its length (R155). -/
theorem frameKind_eq_some {o : List Byte} {k : Kind} (h : frameKind o = some k) : o = kindByte k :: o.drop 1 ∧ o.length = kindLength k := by
  unfold frameKind at h
  split at h
  · rename_i k' hk
    split at h
    · rename_i hl
      cases h
      refine ⟨?_, hl⟩
      cases o with
      | nil => cases k <;> simp [kindLength] at hl
      | cons b o =>
        simp at hk ⊢
        unfold kindOf at hk
        split_ifs at hk <;> cases hk <;> (apply BitVec.eq_of_toNat_eq; simpa [kindByte, kindValue])
    · cases h
  · cases h

theorem exec_command (k : Kind) (dt body s) : exec (k.command dt body) s = .next (kindArrives k dt body s) := by
  cases k <;> rfl

/-- A frame that arrives is copied to the tracker. -/
theorem exec_command_of_arrives {k : Kind} {o : List Byte} {f : Frame} {s : State} (dt : Nat) (h : Arrives k o f s) :
    exec (k.command dt (o.drop 1)) s = .next (settleReaction (onCopy (originOf o) f (s.copied dt o))) := by
  obtain ⟨hr, htr, hu, hb, hc, hk, hor, hh, hrc, hen⟩ := h
  obtain ⟨ho, hl⟩ := frameKind_eq_some hk
  rw [exec_command, kindArrives, ← ho]
  have h5 : 5 ≤ o.length ∧ o.length ≤ 24 := by rw [hl]; cases k <;> simp [kindLength]
  simp only [unlessReset, elapse_inReset, hr, Bool.false_eq_true, if_false]
  rw [receiveOctets_eq_receiveFrame o dt s hu h5.1 h5.2]
  have e1 : (s.heardLink dt).straps = s.straps := rfl
  have e2 : (s.heardLink dt).link.buffer = s.link.buffer := rfl
  have e3 : s.mode ≠ .outside := by
    intro hm; simp [State.tracking, hm] at htr
  simp only [receiveFrame, hc, e1, e2]
  simp only [Bool.not_true, Bool.false_eq_true, if_false, hor, if_neg (Nat.not_le.mpr hh), if_neg (Nat.not_le.mpr hb)]
  simp only [handCopy]
  rw [if_neg (by exact e3)]
  simp only [hk, hrc]; rfl

/-- A frame of the tile's own origin and of 5 to 24 octets, whatever its length, leaves the ring and is reported by octet 0 (R144, R155). -/
theorem ownArrives_eq_ownReturns (kind : Byte) (dt : Nat) (rest : List Byte) (s : State) (hr : s.inReset = false) (hu : s.link.up = true)
    (h3 : 3 ≤ rest.length) (h22 : rest.length ≤ 22) (hc : crcGood (kind :: byteOf (ownIndex s.straps) :: rest) = true) :
    ownArrives kind dt rest s = ownReturns (kind :: byteOf (ownIndex s.straps) :: rest) (s.heardLink dt) := by
  simp only [ownArrives, unlessReset, elapse_inReset, hr, Bool.false_eq_true, if_false]
  rw [receiveOctets_eq_receiveFrame _ dt s hu (by simp; omega) (by simp; omega)]
  have ho : originOf (kind :: byteOf (ownIndex s.straps) :: rest) = ownIndex s.straps := by
    have := s.straps.col.isLt; have := s.straps.row.isLt
    simp [originOf, octetAt, byteOf, ownIndex, indexAt]; omega
  simp only [receiveFrame, hc, Bool.not_true, Bool.false_eq_true, if_false]
  exact if_pos ho

/-- A pen frame that arrives has its effect on a tile that is awake, and the dormant timer is set afresh. -/
theorem exec_command_of_pen {k : Kind} {o : List Byte} {f : Frame} {s : State} (dt : Nat) (h : Arrives k o f s) (c : Chan) (hfc : f.channel = some c) (hb : ∀ x, f ≠ .border x) :
    exec (k.command dt (o.drop 1)) s = .next (settleReaction (timeDormant (penEffect (originOf o) f ((s.copied dt o).woken)).1, (penEffect (originOf o) f ((s.copied dt o).woken)).2)) := by
  rw [exec_command_of_arrives dt h]
  obtain ⟨hr, htr, hu, hbf, hc, hk, hor, hh, hrc, hen⟩ := h
  have htr' : (s.copied dt o).tracking = true := htr
  have hen' : (s.copied dt o).enabled c = true := by have := hen c hfc; cases c <;> exact this
  have hw : wake (s.copied dt o) = (s.copied dt o).woken := by unfold wake State.woken; rfl
  cases f <;> simp_all [onCopy, Frame.channel, penFrame]

/-- Eight frames at most wait in the own queue after a frame has joined it (R150, R151). -/
theorem push_own_length (f : Frame) (l : Link) (h : l.own.length ≤ 8) : (l.push f).own.length ≤ 8 := by
  unfold Link.push
  split
  · simp; omega
  · unfold discardOne
    have hex : ∃ x ∈ l.own ++ [f], (x.cls == lowestClass (l.own ++ [f])) = true := by
      have fold : ∀ (m : List Nat) (a : Nat), m.foldl min a = a ∨ m.foldl min a ∈ m := by
        intro m; induction m with
        | nil => intro a; simp
        | cons b m ih =>
          intro a
          rcases ih (min a b) with h | h
          · rcases Nat.le_total a b with hab | hab
            · left; simpa [hab] using h
            · right; rw [List.foldl_cons, h, Nat.min_eq_right hab]; simp
          · right; rw [List.foldl_cons]; exact List.mem_cons_of_mem _ h
      have top : ∀ (m : List Nat) (a : Nat), m.foldl min a ≤ a ∧ ∀ x ∈ m, m.foldl min a ≤ x := by
        intro m; induction m with
        | nil => intro a; simp
        | cons b m ih =>
          intro a; obtain ⟨i1, i2⟩ := ih (min a b)
          rw [List.foldl_cons]
          refine ⟨by omega, ?_⟩
          intro x hx
          rcases List.mem_cons.1 hx with rfl | hx
          · omega
          · exact i2 x hx
      rcases fold ((l.own ++ [f]).map Frame.cls) 3 with h3 | h3
      · refine ⟨f, by simp, ?_⟩
        have h4 := (top ((l.own ++ [f]).map Frame.cls) 3).2 f.cls (List.mem_map.2 ⟨f, by simp, rfl⟩)
        have h5 : f.cls ≤ 3 := by unfold Frame.cls; cases f.kind <;> simp [kindClass]
        simp only [lowestClass, beq_iff_eq]; omega
      · obtain ⟨x, hx, hxe⟩ := List.mem_map.1 h3
        exact ⟨x, hx, by simp only [lowestClass, beq_iff_eq]; exact hxe⟩
    obtain ⟨x, hx, hp⟩ := hex
    generalize lowestClass (l.own ++ [f]) = m at hp ⊢
    have h8 : ((l.own ++ [f]).eraseP fun f => f.cls == m).length = (l.own ++ [f]).length - 1 :=
      @List.length_eraseP_of_mem _ _ x (fun f => f.cls == m) hx hp
    simp only [List.length_append, List.length_singleton] at h8
    show ((l.own ++ [f]).eraseP fun f => f.cls == m).length ≤ 8
    omega

/-! ### Fields that R156 refuses -/

/-- A channel octet read names its channel. -/
theorem readChan_eq_some {v : Nat} {d : Chan} (h : readChan v = some d) : v = chanIndex d := by
  unfold readChan at h
  split at h <;> cases h <;> rfl

theorem readChan_eq_none (v : Nat) : readChan v = none ↔ 2 ≤ v := by
  unfold readChan; split <;> simp_all <;> omega

theorem readSide_eq_none (v : Nat) (h : v < 4) : readSide v = none ↔ v = 3 := by
  unfold readSide; split <;> simp_all; omega

theorem readTile_eq_none (v : Nat) : readTile v = none ↔ 32 ≤ v := by
  unfold readTile; split <;> simp <;> omega

theorem readLevel_eq_none (v : Nat) : readLevel v = none ↔ 3 < v := by
  unfold readLevel; split <;> simp <;> omega

end Sys2Proof.Machine
end

