-- ==== Sys2Proof/WellFormed.lean ====
section
/-! DEFINITION. Which commands are well formed: operands of the shape the event they stand for has. The meanings are total and do not ask for it. -/

namespace Sys2Proof

open Machine (Kind kindOf kindLength)

/-- A period of LISTEN holds the samples of the sixteen receive paths (R23). -/
def Period.wellFormed (p : Period) : Bool := p.length == 16

/-- The samples of a whole listen: 8, 16 or 32 periods (R16). -/
def wholeListen (periods : List Period) : Bool :=
  (periods.length == 8 || periods.length == 16 || periods.length == 32) && periods.all Period.wellFormed

/-- A listen cut short: at most 32 whole periods, and of the next one no samples, or at most four of each of the sixteen paths (R16, R24). -/
def Sampled.wellFormed (l : Sampled) : Bool :=
  l.periods.length ≤ 32 && l.periods.all Period.wellFormed
    && (l.cut.length == 0 || l.cut.length == 16) && l.cut.all (·.length ≤ 4)

/-- The content after the kind octet has the length of the kind (R155). -/
def bodyFits (k : Kind) (body : List Byte) : Bool := body.length + 1 == kindLength k

/-- The content after kind and origin makes a frame of 5 to 24 octets; a return is reported whatever its length (R142, R144). -/
def restFits (rest : List Byte) : Bool := 3 ≤ rest.length && rest.length ≤ 22

/-- A frame of unknown kind, or of known kind and another length (R146, R155). -/
def unknownOrWrong (octets : List Byte) : Bool :=
  5 ≤ octets.length && octets.length ≤ 24 &&
    match kindOf (octets.getD 0 0) with
    | none => true
    | some k => octets.length != kindLength k

/-- The shape checks of a command's operands. -/
def Instr.wellFormed : Instr → Bool
  | .powerOnReset _ => true
  | .pinReset _ => true
  | .resetEnd _ _ => true
  | .imageLoaded octets => octets.length == 128
  | .driveEnd _ => true
  | .settleEnd => true
  | .listenEnd periods _ => wholeListen periods
  | .dampEnd _ _ => true
  | .fieldRise _ _ sampled _ => sampled.wellFormed
  | .fieldFall _ _ => true
  | .refreshTimerExpiry => true
  | .dormantTimerExpiry => true
  | .seekTimerExpiry => true
  | .backoffTimerExpiry => true
  | .claimTimerExpiry _ => true
  | .deferTimerExpiry _ => true
  | .reportTimerExpiry _ => true
  | .barrierTimerExpiry _ => true
  | .borderTimerExpiry _ => true
  | .yieldTimerExpiry _ => true
  | .ageTimerExpiry _ => true
  | .viewTimerExpiry _ => true
  | .linkInDown _ => true
  | .linkInUp _ groups => !groups.isEmpty
  | .sighting _ body => bodyFits .sighting body
  | .notice _ body => bodyFits .notice body
  | .border _ body => bodyFits .border body
  | .report _ body => bodyFits .report body
  | .yield _ body => bodyFits .yield body
  | .take _ body => bodyFits .take body
  | .lost _ body => bodyFits .lost body
  | .restart _ body => bodyFits .restart body
  | .noticeReturn _ rest => restFits rest
  | .sightingReturn _ rest => restFits rest
  | .ownFrameRemoved _ kind rest =>
      restFits rest && kindOf kind != some .notice && kindOf kind != some .sighting
  | .unknownKindFrame _ octets => unknownOrWrong octets
  | .forwardFrameSend _ => true
  | .ownFrameSend _ => true
  | .frameReceptionDiscard _ groups => !groups.isEmpty

end Sys2Proof
end

