-- ==== Sys2Proof/Tests/Slice0.lean ====
section
/-! SUPPORT. Tests: ill-formed commands refused, numbers of the spec's worked examples, and a witness for the hypotheses of every statement. -/

namespace Sys2Proof.Tests

open Sys2Proof Sys2Proof.Machine

/-! ### Well-formedness: each check refuses an ill-formed command -/

theorem test_wf_short_image : (Instr.imageLoaded [84]).wellFormed = false := rfl
theorem test_wf_listen_of_9 : (Instr.listenEnd (List.replicate 9 (List.replicate 16 ⟨0, 0, 0, 0⟩)) none).wellFormed = false := by decide
theorem test_wf_listen_path_short : (Instr.listenEnd (List.replicate 8 (List.replicate 15 ⟨0, 0, 0, 0⟩)) none).wellFormed = false := by decide
theorem test_wf_rise_periods : (Instr.fieldRise 0 0 ⟨List.replicate 33 (List.replicate 16 ⟨0, 0, 0, 0⟩), []⟩ none).wellFormed = false := by decide
theorem test_wf_rise_path_short : (Instr.fieldRise 0 0 ⟨[[]], []⟩ none).wellFormed = false := rfl
theorem test_wf_rise_cut_paths : (Instr.fieldRise 0 0 ⟨[], [[0]]⟩ none).wellFormed = false := rfl
theorem test_wf_rise_cut_samples : (Instr.fieldRise 0 0 ⟨[], List.replicate 16 [0, 0, 0, 0, 0]⟩ none).wellFormed = false := by decide
theorem test_wf_no_groups_up : (Instr.linkInUp 0 []).wellFormed = false := rfl
theorem test_wf_no_groups_discard : (Instr.frameReceptionDiscard 0 []).wellFormed = false := rfl
theorem test_wf_bodies : ∀ k ∈ [Kind.sighting, .notice, .border, .report, .yield, .take, .lost, .restart],
    (k.command 0 []).wellFormed = false := by decide
theorem test_wf_notice_return : (Instr.noticeReturn 0 (List.replicate 23 0)).wellFormed = false := rfl
theorem test_wf_sighting_return : (Instr.sightingReturn 0 (List.replicate 2 0)).wellFormed = false := rfl
theorem test_wf_own_short : (Instr.ownFrameRemoved 0 3 [0, 0]).wellFormed = false := rfl
theorem test_wf_own_long : (Instr.ownFrameRemoved 0 3 (List.replicate 23 0)).wellFormed = false := rfl
theorem test_wf_own_kind : ∀ k ∈ [Kind.notice, .sighting],
    (Instr.ownFrameRemoved 0 (kindByte k) (List.replicate 10 0)).wellFormed = false := by decide
theorem test_wf_unknown_known : (Instr.unknownKindFrame 0 (Frame.restart.encode 3 0)).wellFormed = false := by decide
theorem test_wf_unknown_short : (Instr.unknownKindFrame 0 [0, 0, 0, 0]).wellFormed = false := rfl

/-! ### The table gives no bits (log 20) -/

theorem test_decode_none : decodeTableWord 16 0x1234 = none ∧ State.reset.withFetchWord 16 0x1234 = State.reset := ⟨rfl, rfl⟩

/-! ### Numbers of the spec's worked examples -/

/-- The straps of the tile of the worked sequences: column 2, row 1, mirrored in X; index 10. -/
def strapsTen : Straps := { col := 2, row := 1, mirrorX := true, mirrorY := false }

theorem test_tile_ten : ownIndex strapsTen = 10 ∧ [0, 5, 40, 47].map (toSurface strapsTen .X) = [143, 138, 103, 96] ∧
    toLocal strapsTen .X 103 = 40 := by decide
theorem test_magnitude : magnitude ⟨90000, 27000, false⟩ = 100125 ∧ magnitude ⟨-30000, 40000, false⟩ = 51250 := by decide
theorem test_refresh : (refreshFloor 5 137 ⟨100, none, false, false⟩).value = 109 ∧
    (refreshFloor 5 90 ⟨109, none, false, false⟩).value = 105 ∧
    (refreshFloor 5 103 ⟨105, none, false, false⟩).value = 105 := by decide
theorem test_amplitude : amplitude 67500 300 (896 + 144) = 68250 ∧ amplitude 299 300 1040 = 0 := by decide
theorem test_lfsr : lfsrSeed strapsTen = 10211 ∧ lfsrStep 10211 = 20422 ∧ lfsrStep 20422 = 40845 ∧ lfsrStep 32768 = 1 := by decide
theorem test_past_border : pastBorder strapsTen .X 128 36991 = true ∧ pastBorder strapsTen .X 128 36990 = false ∧
    ownerOf 36991 9000 = 11 := by decide
theorem test_code_groups : (∀ x ∈ [codeGroup false .start, codeGroup true .start], classify x = .start) ∧
    (lineBits (codeGroup false .idle)).map (·.toNat) = [0, 0, 1, 1, 1, 1, 1, 0, 1, 0] := by decide

theorem test_eeprom_pins : ([0, 5, 6, 7, 8, 23].map fun bit => (readClock (usec bit), readData (usec bit) 0)) =
    [(false, false), (false, false), (false, true), (false, true), (false, false), (false, false)] ∧
    readClock (usec 1047 + usec 1 / 2) = true := by decide +kernel

/-- The settings of the estimator's worked example. -/
def settingsTen : Settings := { Config.defaultSettings with offsetA := 100, gainA := 300, enableB := true }

/-- A profile of own entries from a first loop. -/
def profileFrom (lo : Nat) (l : List Nat) : List Entry := l.zipIdx.map fun (a, k) => ⟨lo + k, a, .own, false⟩

theorem test_coordinates :
    coordinateOf (profileFrom 60 [30000, 50000, 50000, 20000]) = 61 * 256 + 255 ∧
    coordinateOf (profileFrom 0 [30000, 20000, 10000, 20]) = 128 ∧
    coordinateOf (profileFrom 99 [1200, 3500, 9800, 40000, 100000, 70000, 21000, 5200]) = 26539 := by decide
theorem test_rounding : roundDiv (512 * 800) 900 = 455 ∧ roundDiv (-512) 900 = -1 := by decide

/-- The pen record before the estimator's worked cycle. -/
def penTen : Pen where
  peakX := 103
  peakY := 40
  down := false
  weakCount := 0
  history := [(1, 1), (2, 2), (3, 3)]
  writeIndex := 3
  lastX := 26560
  lastY := 10420
  lastPressure := 0
  lastTiltX := 70
  lastTiltY := 0

/-- The cycle record of the estimator's worked cycle. -/
def recordTen : CycleRecord where
  number := 1
  windowX := 37
  windowY := 5
  wantX := none
  wantY := none
  tipX := profileFrom 99 [1200, 3500, 9800, 40000, 100000, 70000, 21000, 5200]
  tipY := profileFrom 37 [2100, 8800, 35000, 90000, 55000, 14000, 3900, 1100]
  collarX := profileFrom 99 [800, 2600, 7400, 24000, 52000, 60000, 20000, 6100]
  collarY := profileFrom 37 [1600, 7200, 30000, 62000, 41000, 11000, 3000, 900]
  strongest := some ⟨some 103, 90000, 27000⟩
  stale := false
  edgeX := false
  edgeY := false
  collarBuilt := true

theorem test_estimate : (estimate settingsTen .A 2 (closeRecord recordTen) penTen).contents =
    { level := 2, x := 26539, y := 10396, pressure := 242, tiltX := 73, tiltY := -1, flags := { tipDown := true } } := by
  decide
theorem test_windows : windowStart ⟨1, 2, false, false⟩ .X 49 = 0 ∧ windowStart ⟨1, 2, false, false⟩ .Y 80 = 13 ∧
    windowStart ⟨1, 2, true, false⟩ .X 49 = 40 := by decide

/-! ### States for the witnesses -/

/-- A tile that tracks with both channels in SEEK. -/
def tile : State :=
  { State.reset with
    now := 1000000
    inReset := false
    straps := strapsTen
    settings := settingsTen
    mode := .active
    baseline := { Baseline.atReset with timer := some 5000000 }
    chanA := { Channel.atReset with state := .seek }
    chanB := { Channel.atReset with state := .seek }
    seek := { pass := none, timer := some 3000000, backoff := none, turn := .A, lfsr := 10211 }
    dormant := some 9000000
    link := { Link.atReset with up := true, count := 64, sending := true } }

/-- Channel A of a state replaced. -/
def withA (ch : Channel) (s : State) : State := { s with chanA := ch }

/-- A sequence at work, disturbed or abandoned as said. -/
def run (ph : Phase) (job : Job) (disturbed abandoned : Bool) : Running where
  phase := ph
  ends := 2000000
  seq :=
    { job := job, loops := [], level := 3, windowX := 0, windowY := 0, disturbed := disturbed, abandoned := abandoned }

/-- A state with its engine at work. -/
def busy (r : Running) (s : State) : State := { s with engine := { s.engine with running := some r } }

/-- A cycle in progress. -/
def cycleIn (ph : CyclePhase) (attempt : Nat) : Cycle where
  phase := ph
  attempt := attempt
  ringFault := false
  abandoned := false
  barrier := some 2500000
  border := some 2600000
  gotX := false
  gotY := false
  handover := false

/-- The cycle state of a held channel, its latest number 7. -/
def cyclesOf (current : Option Cycle) : CycleState where
  timer := 4000000
  number := some 7
  firstNumber := 0
  byTake := false
  current := current
  overrun := 255
  spacing := 0

/-- A held channel. -/
def heldChan (current : Option Cycle) (rec : CycleRecord) (pen : Pen) : Channel :=
  { Channel.atReset with
    state := .hold, level := 2, lastStrength := 60000, record := some rec, pen := some pen
    cycles := some (cyclesOf current) }

/-- A tile that holds channel A. -/
def held (current : Option Cycle) (rec : CycleRecord) : State := withA (heldChan current rec penTen) tile

/-- The record of cycle 7 with the last peaks in the middle of the tile. -/
def recordMid : CycleRecord := newRecord strapsTen settingsTen penTen 7

/-- The record of cycle 7 with the last X peak at the tile's low edge, which asks tile 9 for two loops. -/
def recordEdge : CycleRecord := newRecord strapsTen settingsTen { penTen with peakX := 97 } 7

/-- A whole listen without a signal. -/
def silence : List Period := List.replicate 16 (List.replicate 16 ⟨0, 0, 0, 0⟩)

/-- An arming record for one loop on the low X side. -/
def arming : Arming where
  holder := 9
  cycle := 7
  axis := .X
  side := .low
  first := 96
  count := 1
  tip := none
  collar := none
  timer := 3000000
  capturing := true

/-- A tile with channel A armed. -/
def armedTile (a : Arming) : State := withA { Channel.atReset with state := .seek, arming := some a } tile

/-! ### Witnesses: concrete states that meet the hypotheses of each statement -/

theorem witness_StepRunsTheFrontCommand :
    { tile with pending := [Instr.settleEnd, .linkInDown 1] }.pending = [.settleEnd, .linkInDown 1] ∧ tile.pending = [] :=
  ⟨rfl, rfl⟩

theorem witness_HeldInResetNothingRuns : State.reset.inReset = true ∧ (∀ dt, Instr.settleEnd ≠ .powerOnReset dt) ∧
    (∀ dt, Instr.settleEnd ≠ .pinReset dt) ∧ ∀ dt st, Instr.settleEnd ≠ .resetEnd dt st :=
  ⟨rfl, nofun, nofun, nofun⟩

theorem witness_ResetStopsEveryBlock : ∀ c ∈ [Instr.powerOnReset 5, .pinReset 5],
    c = .powerOnReset 5 ∨ c = .pinReset 5 := by decide

theorem witness_ResetEndBeginsTheStartSequence : State.reset.inReset = true ∧ State.reset.loader.readEnds = none ∧
    ∀ p ∈ [(0, 0), (23, usec 1 / 2 - 1), (24, usec 1 / 2), (1047, usec 1 - 1)], p.1 < 131 * 8 ∧ p.2 < usec 1 := by decide

/-- A tile whose image read is about to end; its straps as given. -/
def readingImage (st : Straps) : State :=
  { tile with mode := .start, straps := st, loader := { readEnds := some 2000000, octets := [], imageDefault := false } }

/-- An image with values to be clamped (R164). -/
def clampedImage : List Byte :=
  withCrc ((List.range 126).map fun k =>
    byteOf (if k = 0 then 84 else if k = 1 then 7 else if k = 4 then 20 else if k = 15 then 6 else
      if k = 16 then 164 else if k = 26 then 30 else if k = 28 then 40 else 255))

theorem witness_GoodImageIsClampedIntoUse : (readingImage strapsTen).inReset = false ∧
    (readingImage strapsTen).loader.readEnds = some 2000000 ∧ clampedImage.length = 128 ∧ octetAt clampedImage 0 = 84 ∧
    word2 clampedImage 126 = crcOf (clampedImage.take 126) := by
  and_intros <;> decide +kernel

theorem witness_BadImageGivesTheDefaults : (readingImage strapsTen).inReset = false ∧
    (readingImage strapsTen).loader.readEnds = some 2000000 ∧
    ∀ o ∈ [List.replicate 128 84, 0 :: clampedImage.drop 1, []],
      (o.length = 128 ∧ (octetAt o 0 ≠ 84 ∨ word2 o 126 ≠ crcOf (o.take 126))) ∨ o = [] := by
  and_intros <;> decide +kernel

theorem witness_ExtentDecidesTheTileMode : ∀ st : Straps, ∃ s : State,
    s.inReset = false ∧ s.loader.readEnds = some 2000000 ∧ s.mode = .start ∧ s.engine.running = none ∧ s.queue = [] ∧
      s.straps = st :=
  fun st => ⟨readingImage st, rfl, rfl, rfl, rfl, rfl, rfl⟩

theorem witness_ExtentDecidesTheTileMode_bounds :
    (∀ st ∈ [(⟨4, 2, false, false⟩ : Straps), ⟨3, 3, false, false⟩],
      ∃ t, exec (.imageLoaded []) (readingImage st) = .next t ∧
        (t.settings.columns ≤ st.col.val ∨ t.settings.rows ≤ st.row.val)) ∧
    ∃ t, exec (.imageLoaded []) (readingImage ⟨3, 2, false, false⟩) = .next t ∧
      3 < t.settings.columns ∧ 2 < t.settings.rows := by
  refine ⟨fun st h => ?_, _, rfl, by decide⟩
  simp only [List.mem_cons, List.not_mem_nil, or_false] at h
  rcases h with rfl | rfl <;> exact ⟨_, rfl, by decide⟩

theorem witness_DriveAndSettleRunTheirLengths : ∀ ph ∈ [Phase.drive, .settle], ∃ (s : State) (r : Running),
    s.inReset = false ∧ s.engine.running = some r ∧ r.phase = ph ∧ r.seq.job.driven = true :=
  fun ph _ => ⟨busy (run ph (.tip .A) false false) tile, run ph (.tip .A) false false, rfl, rfl, rfl, rfl⟩

/-- The loops driven in DRIVE are the loops damped in DAMP, and in SETTLE and LISTEN no loop is driven or damped (R16, R22). -/
theorem test_loops_driven : [Phase.drive, .settle, .listen, .damp].map (fun ph =>
      let r := run ph (.tip .A) false false
      let s := busy { r with seq := { r.seq with loops := [5] } } tile
      (s.drivenLoops, s.dampedLoops)) = [([5], []), ([], []), ([], []), ([], [5])] := by decide

theorem witness_ListenAccumulatesThenDamps : ∃ (s : State) (r : Running), s.inReset = false ∧ s.engine.running = some r ∧ r.phase = .listen ∧
    r.seq.job.driven = true ∧ silence.length = s.settings.listenLength ∧ (∀ v ∈ silence, v.length = 16) ∧
    s.engine.paths.length = 16 :=
  ⟨busy (run .listen (.tip .A) false false) tile, run .listen (.tip .A) false false, by and_intros <;> first | rfl | decide⟩

theorem witness_RiseElsewhereIsOnlyRecorded :
    (∃ s : State, s.inReset = false ∧ (∀ r, s.engine.running = some r → r.seq.job.freq ≠ 0 ∨ r.phase = .drive ∨ r.phase = .damp)) ∧
    (∃ s : State, s.inReset = false ∧ ∃ (r : Running), s.engine.running = some r ∧ r.seq.job.freq = 2 ∧ r.phase = .listen) ∧
    ∃ s : State, s.inReset = false ∧ detectorAt 0 s ≠ .quiet :=
  ⟨⟨tile, rfl, fun _ h => nomatch h⟩, ⟨busy (run .listen (.tip .B) false false) tile, rfl, _, rfl, rfl, rfl⟩,
    ⟨{ tile with detectors := [.present, .quiet, .quiet, .quiet] }, rfl, by decide⟩⟩

/-- What a rise may find sampled at the limits: nothing in SETTLE; in LISTEN nothing, parts of the first and of the last period, and all periods. -/
def cuts : List (Phase × Sampled) :=
  [(.settle, ⟨[], []⟩), (.listen, ⟨[], []⟩), (.listen, ⟨[], List.replicate 16 [2047]⟩),
    (.listen, ⟨silence.take 15, List.replicate 16 [0, 0, 0, -2048]⟩), (.listen, ⟨silence, []⟩)]

/-- They fit a sequence of any kind in that phase. -/
theorem cuts_fit (job : Job) (s : State) (h : s.settings.listenLength = 16) :
    ∀ p ∈ cuts, RiseFinds p.2 (run p.1 job false false) s := by
  intro p hp
  unfold RiseFinds
  rw [h]
  show (p.1 = .settle ∧ _) ∨ (p.1 = .listen ∧ _)
  revert p
  decide

theorem witness_RiseDisturbsADrivenListen : ∀ p ∈ cuts, ∃ (s : State) (r : Running),
    s.inReset = false ∧ s.engine.running = some r ∧ r.seq.job.freq = (0 : Freq).val ∧ r.seq.job.driven = true ∧
      detectorAt 0 s = .quiet ∧ RiseFinds p.2 r s ∧ s.engine.paths.length = 16 :=
  fun p hp => ⟨busy (run p.1 (.tip .A) false false) tile, run p.1 (.tip .A) false false, rfl, rfl, rfl, rfl, rfl,
    cuts_fit _ _ rfl p hp, rfl⟩

/-- A sample of the period cut short sets its path's clipped mark and no sum (R25, R28). -/
theorem test_cut_clips : ∃ t, exec (.fieldRise 0 0 ⟨[], [[5, 2047], [5]]⟩ none) (busy (run .listen (.tip .A) false false) tile) = .next t ∧
    t.engine.paths.take 2 = [⟨0, 0, true⟩, ⟨0, 0, false⟩] :=
  ⟨_, rfl, by decide⟩

theorem witness_FallStartsABorderCapture :
    (tile.inReset = false ∧ detectorAt 0 tile ≠ .present) ∧
    ∀ a ∈ [none, some arming, some { arming with tip := some [(5, false)] }],
      let s := { withA { Channel.atReset with state := .seek, arming := a } tile with
        detectors := [.present, .quiet, .quiet, .quiet] }
      s.inReset = false ∧ detectorAt 0 s = .present ∧ s.engine.running = none ∧ (s.chan (freqChan 0)).arming = a ∧
        (busy (run .drive (.tip .B) false false) s).engine.running.isSome = true ∧
        ∀ b, a = some b → (b.captured (freqCoil 0) = none ∨ (b.captured (freqCoil 0)).isSome = true) := by
  refine ⟨by decide, fun a _ => ⟨rfl, rfl, rfl, rfl, rfl, fun b _ => ?_⟩⟩
  cases b.captured (freqCoil 0)
  · exact .inl rfl
  · exact .inr rfl

/-- Channel A in SEEK, channel B held: requests of A for tracking and of B for seeking are not eligible. -/
def halfHeld (owed : Nat) (q : List Request) : State :=
  { tile with
    chanB := heldChan none recordMid penTen, queue := q, baseline := { tile.baseline with owed := owed } }

/-- A tracking request that is not eligible, one that is, and a seek request that is. -/
def mixed : List Request := [⟨.A, .tip 0 0⟩, ⟨.B, .tip 1 1⟩, ⟨.A, .seekX 4⟩]

theorem witness_GrantFollowsTheOrder :
    ((∀ n ∈ [8, 7, 1, 0], (halfHeld n mixed).engine.running = none ∧ (halfHeld n mixed).mode ≠ .outside ∧
      (halfHeld n mixed).baseline.owed = n) ∧
    (∀ s ∈ [halfHeld 7 mixed, halfHeld 0 mixed], s.baseline.owed < 8 ∧ s.queue[1]? = some ⟨.B, .tip 1 1⟩ ∧
      (⟨.B, .tip 1 1⟩ : Request).ask.work ≠ .seek ∧ (s.chan .B).state = .hold ∧
      s.queue[0]? = some ⟨.A, .tip 0 0⟩ ∧ (s.chan .A).state ≠ .hold) ∧
    (∀ s ∈ [halfHeld 7 [⟨.A, .tip 0 0⟩, ⟨.A, .seekX 4⟩]],
      (∀ x ∈ s.queue, x.ask.work ≠ .seek → (s.chan x.ch).state ≠ .hold) ∧ s.queue[1]? = some ⟨.A, .seekX 4⟩ ∧
      (s.chan .A).state = .seek ∧ (⟨.A, .seekX 4⟩ : Request).ask.work = .seek) ∧
    ∀ s ∈ [halfHeld 0 [⟨.A, .tip 0 0⟩, ⟨.B, .seekX 4⟩], halfHeld 1 []],
      s.baseline.owed < 8 ∧ ∀ x ∈ s.queue, ¬ if x.ask.work = .seek then (s.chan x.ch).state = .seek else (s.chan x.ch).state = .hold) ∧
    (∃ i, i < 48 ∧ deadLoop tile.settings i = false) ∧ ((halfHeld 0 []).chan .B).pen = some penTen := by
  exact ⟨by decide, ⟨0, by decide, by decide⟩, rfl⟩

theorem witness_RequestWaitsOrIsGranted :
    (∀ x ∈ (halfHeld 0 mixed).queue, ¬ SameRequester ⟨.B, .seekX 0⟩ x) ∧
    (halfHeld 0 mixed).queue = [⟨.A, .tip 0 0⟩, ⟨.B, .tip 1 1⟩] ++ ⟨.A, .seekX 4⟩ :: [] ∧
    SameRequester ⟨.A, .seekY 100 4 0⟩ ⟨.A, .seekX 4⟩ ∧
    (∀ y ∈ [(⟨.A, .tip 0 0⟩ : Request), ⟨.B, .tip 1 1⟩] ++ [], ¬ SameRequester ⟨.A, .seekY 100 4 0⟩ y) ∧
    tile.inReset = false := by
  decide

/-- Channel A held in the midst of a cycle, its driven sequence in DAMP. -/
def damping (job : Job) (disturbed : Bool) (cy : Cycle) (rec : CycleRecord) : State :=
  busy (run .damp job disturbed false) (held (some cy) rec)

theorem witness_TipResultDecides : ∀ (disturbed : Bool) (attempt : Nat), ∃ (s : State) (r : Running) (c : Chan)
    (cs : CycleState) (cy : Cycle) (rec : CycleRecord) (pen : Pen) (n : Nat), s.inReset = false ∧
    s.engine.running = some r ∧ r.phase = .damp ∧ r.seq.job = .tip c ∧ r.seq.abandoned = false ∧
    (s.chan c).cycles = some cs ∧ cs.current = some cy ∧ cy.phase = .tip ∧ cs.number = some n ∧
    (s.chan c).record = some rec ∧ (s.chan c).pen = some pen ∧ r.seq.disturbed = disturbed ∧ cy.attempt = attempt :=
  fun d a => ⟨damping (.tip .A) d (cycleIn .tip a) recordMid, run .damp (.tip .A) d false, .A, _, _, _, _, _,
    rfl, rfl, rfl, rfl, rfl, rfl, rfl, rfl, rfl, rfl, rfl, rfl, rfl⟩

theorem witness_CollarResultOpensTheBorderWait : ∀ disturbed awaited : Bool, ∃ (s : State) (r : Running) (c : Chan)
    (cs : CycleState) (cy : Cycle) (rec : CycleRecord), s.inReset = false ∧ s.engine.running = some r ∧
    r.phase = .damp ∧ r.seq.job = .collar c ∧ r.seq.abandoned = false ∧ (s.chan c).cycles = some cs ∧
    cs.current = some cy ∧ cy.phase = .collar ∧ (s.chan c).record = some rec ∧ r.seq.disturbed = disturbed ∧
    ((rec.wantX.isSome = true ∧ cy.gotX = false) ∨ (rec.wantY.isSome = true ∧ cy.gotY = false) ↔ awaited = true) := by
  intro d w
  refine ⟨damping (.collar .A) d (cycleIn .collar 1) (if w then recordEdge else recordMid), run .damp (.collar .A) d false,
    .A, _, _, _, rfl, rfl, rfl, rfl, rfl, rfl, rfl, rfl, rfl, rfl, ?_⟩
  cases w <;> decide

/-- Channel A held in BORDER WAIT after a weak cycle, with a weak count. -/
def waning (weak : Nat) : State :=
  withA (heldChan (some (cycleIn .borderWait 1)) recordMid { penTen with weakCount := weak }) tile

theorem witness_BorderWaitEndsWithAReport : ∀ p ∈ [(2, false), (3, true)], ∃ (s : State) (c : Chan) (cs : CycleState)
    (cy : Cycle) (rec : CycleRecord) (pen : Pen) (n t0 : Nat), (s.chan c).cycles = some cs ∧ cs.current = some cy ∧
    cs.number = some n ∧ (s.chan c).record = some rec ∧ (s.chan c).pen = some pen ∧
    (estimate s.settings c (s.chan c).level (closeRecord rec) pen).lost = p.2 ∧ s.inReset = false ∧
    cy.border = some t0 ∧ (s.chan c).state = .hold ∧ s.seek.timer ≠ none := by
  intro p hp
  refine ⟨waning p.1, .A, _, _, _, _, _, _, rfl, rfl, rfl, rfl, rfl, ?_, rfl, rfl, rfl, nofun⟩
  revert p
  decide

/-- A pen lost while the seek timer is stopped: the channel is in SEEK and its pass has begun (R96, R137). -/
theorem test_loss_begins_a_pass :
    let s := { waning 3 with seek := { tile.seek with timer := none } }
    let t := (endBorderWait .A s).1
    s.seek.backoff = none ∧ s.seek.pass = none ∧ (t.chan .A).state = .seek ∧ (t.chan .A).pen = none ∧
      t.seek.pass = some { ch := .A, stage := .x 0 } ∧ t.dormant = some (s.now + msec 10000) ∧
      (endBorderWait .A s).2 = some { ch := .A, ask := .seekX 0 } := by decide

theorem witness_YieldTestHandsOver :
    (∀ n, ∃ (cs : CycleState) (pen : Pen), ((withA { heldChan none recordMid penTen with
        cycles := some { cyclesOf none with spacing := n } } tile).chan .A).cycles = some cs ∧ cs.spacing = n ∧
      ((held none recordMid).chan .A).pen = some pen) ∧
    (∀ v ∈ [(24448, 9000), (36991, 9000), (30000, 8064), (30000, 16511)],
      v.1 + 128 ≤ tile.straps.col.val * 12288 ∨ tile.straps.col.val * 12288 + 12287 + 128 ≤ v.1 ∨
      v.2 + 128 ≤ tile.straps.row.val * 8192 ∨ tile.straps.row.val * 8192 + 8191 + 128 ≤ v.2) ∧
    ∀ v ∈ [(24449, 9000), (36990, 9000), (30000, 8065), (30000, 16510)],
      ¬ (v.1 + 128 ≤ tile.straps.col.val * 12288 ∨ tile.straps.col.val * 12288 + 12287 + 128 ≤ v.1 ∨
      v.2 + 128 ≤ tile.straps.row.val * 8192 ∨ tile.straps.row.val * 8192 + 8191 + 128 ≤ v.2) :=
  ⟨fun _ => ⟨_, _, rfl, rfl, rfl⟩, by decide, by decide⟩

/-- A seek sequence of channel A in DAMP at a stage of the pass, with a find threshold. -/
def seeking (job : Job) (disturbed : Bool) (stage : Stage) (threshold : Nat) : State :=
  { busy (run .damp job disturbed false) tile with
    settings := { settingsTen with findThreshold := threshold }
    seek := { tile.seek with pass := some { ch := .A, stage := stage }, timer := none } }

theorem witness_SeekXStageDecides : ∀ p ∈ [(true, Stage.x 0, 6000), (true, .y 5 3 100 9000 3, 6000), (false, .x 0, 0),
      (false, .x 4, 1), (false, .x 5, 1)], ∃ (s : State) (r : Running) (c : Chan), s.inReset = false ∧
    s.engine.running = some r ∧ r.phase = .damp ∧ (r.seq.job = .seekX c ∨ r.seq.job = .seekY c) ∧
    r.seq.abandoned = false ∧ s.seek.pass = some { ch := c, stage := p.2.1 } ∧ r.seq.disturbed = p.1 ∧
    s.settings.findThreshold = p.2.2 ∧
    (peakEntry (filledRun (s.dampedOut r false) .X (coilFreq c .tip) r.seq.windowX)).amp = 0 := by
  intro p hp
  refine ⟨seeking (.seekX .A) p.1 p.2.1 p.2.2, run .damp (.seekX .A) p.1 false, .A, rfl, rfl, rfl, .inl rfl, rfl, rfl, rfl, rfl, ?_⟩
  simp only [List.mem_cons, List.not_mem_nil, or_false] at hp
  rcases hp with rfl | rfl | rfl | rfl | rfl <;> decide

theorem witness_SeekYStageDecides : ∀ p ∈ [(Stage.y 0 0 100 9000 0, 0), (.y 0 0 100 9000 2, 1), (.y 4 5 100 9000 3, 1),
      (.y 5 3 100 9000 3, 1)], ∃ (s : State) (r : Running) (c : Chan), s.inReset = false ∧
    s.engine.running = some r ∧ r.phase = .damp ∧ (r.seq.job = .seekX c ∨ r.seq.job = .seekY c) ∧
    r.seq.abandoned = false ∧ r.seq.disturbed = false ∧ (s.chan c).state = .seek ∧
    s.seek.pass = some { ch := c, stage := p.1 } ∧ s.settings.findThreshold = p.2 ∧
    (peakEntry (filledRun (s.dampedOut r false) .Y (coilFreq c .tip) r.seq.windowY)).amp = 0 := by
  intro p hp
  refine ⟨seeking (.seekY .A) false p.1 p.2, run .damp (.seekY .A) false false, .A, rfl, rfl, rfl, .inr rfl, rfl, rfl, rfl, rfl, rfl, ?_⟩
  simp only [List.mem_cons, List.not_mem_nil, or_false] at hp
  rcases hp with rfl | rfl | rfl | rfl <;> decide

/-- Channel A just entered by a take, its first cycle not begun. -/
def firstWaits : Channel :=
  { heldChan none recordMid penTen with
    record := none, cycles := some { cyclesOf none with number := none, byTake := true }
    abandoned := some (cycleIn .tip 1) }

theorem witness_AbandonedAndDisturbedResultsFormNothing :
    (∀ job ∈ [Job.seekX .A, .seekY .A, .tip .A, .collar .A], ∃ (s : State) (r : Running), s.inReset = false ∧
      s.engine.running = some r ∧ r.phase = .damp ∧ r.seq.abandoned = true ∧ r.seq.job = job ∧
      (s.chan .A).state ≠ .hold) ∧
    (∃ (s : State) (r : Running) (cs : CycleState), s.inReset = false ∧ s.engine.running = some r ∧ r.phase = .damp ∧ r.seq.abandoned = true ∧
      r.seq.job = .tip .A ∧ (s.chan .A).cycles = some cs ∧ cs.number ≠ none) ∧
    (∃ (s : State) (r : Running) (cs : CycleState) (pen : Pen), s.inReset = false ∧ s.engine.running = some r ∧ r.phase = .damp ∧ r.seq.abandoned = true ∧
      r.seq.job = .tip .A ∧ (s.chan .A).state = .hold ∧ (s.chan .A).cycles = some cs ∧ cs.number = none ∧
      (s.chan .A).pen = some pen) ∧
    (silence.length = tile.settings.listenLength ∧ (∀ v ∈ silence, v.length = 16)) ∧
    (∀ p ∈ [(true, false), (false, true)], ∃ (s : State) (r : Running), s.inReset = false ∧ s.engine.running = some r ∧ r.phase = .listen ∧
      r.seq.job.driven = false ∧ s.engine.paths.length = 16 ∧ s.settings.listenLength = 16 ∧ r.seq.job = .baseline 23 ∧
      (r.seq.disturbed, r.seq.abandoned) = p) ∧
    (∀ p ∈ [(true, some arming), (false, none), (false, some { arming with capturing := false })], ∃ (s : State) (r : Running),
      s.inReset = false ∧ s.engine.running = some r ∧ r.phase = .listen ∧ s.engine.paths.length = 16 ∧
      r.seq.job = .capture .A .tip ∧ r.seq.abandoned = p.1 ∧ (s.chan .A).arming = p.2) ∧
    ∀ p ∈ cuts, ∃ (s : State) (r : Running), s.inReset = false ∧ s.engine.running = some r ∧ r.seq.job.driven = false ∧
      s.engine.paths.length = 16 ∧ r.seq.job = .capture .A .tip ∧ r.seq.job.freq = (0 : Freq).val ∧ detectorAt 0 s = .quiet ∧
      RiseFinds p.2 r s ∧ r.seq.abandoned = false ∧ (s.chan .A).arming = some arming ∧ arming.capturing = true :=
  ⟨fun job _ => ⟨busy (run .damp job false true) tile, run .damp job false true, rfl, rfl, rfl, rfl, rfl, nofun⟩,
    ⟨busy (run .damp (.tip .A) false true) (held none recordMid), _, _, rfl, rfl, rfl, rfl, rfl, rfl, nofun⟩,
    ⟨busy (run .damp (.tip .A) false true) (withA firstWaits tile), _, _, _, rfl, rfl, rfl, rfl, rfl, rfl, rfl, rfl, rfl⟩,
    by decide,
    fun p _ => ⟨busy (run .listen (.baseline 23) p.1 p.2) tile, _, rfl, rfl, rfl, rfl, rfl, rfl, rfl, rfl⟩,
    fun p _ => ⟨busy (run .listen (.capture .A .tip) false p.1) (withA { Channel.atReset with state := .seek, arming := p.2 } tile),
      _, rfl, rfl, rfl, rfl, rfl, rfl, rfl⟩,
    fun p hp => ⟨busy (run p.1 (.capture .A .tip) false false) (armedTile arming), run p.1 (.capture .A .tip) false false,
      rfl, rfl, rfl, rfl, rfl, rfl, rfl, cuts_fit _ _ rfl p hp, rfl, rfl, rfl⟩⟩

theorem witness_CaptureResultIsStored : ∀ (k : Coil) (other : Option Capture), ∃ (s : State) (r : Running) (a : Arming), s.inReset = false ∧
    s.engine.running = some r ∧ r.phase = .listen ∧ s.engine.paths.length = 16 ∧
    silence.length = s.settings.listenLength ∧ (∀ v ∈ silence, v.length = 16) ∧ r.seq.job = .capture .A k ∧
    r.seq.abandoned = false ∧ r.seq.disturbed = false ∧ (s.chan .A).arming = some a ∧ a.capturing = true ∧
    (if k = .tip then a.collar else a.tip) = other ∧ a.side = .low ∧ ownLo s.straps a.axis ≤ a.first ∧
    a.first + a.count ≤ ownLo s.straps a.axis + 8 := by
  intro k other
  cases k
  · exact ⟨busy (run .listen (.capture .A .tip) false false) (armedTile { arming with collar := other }), _, _,
      rfl, rfl, rfl, rfl, rfl, by decide, rfl, rfl, rfl, rfl, rfl, rfl, rfl, Nat.le_refl 96, Nat.le_add_right 97 7⟩
  · exact ⟨busy (run .listen (.capture .A .collar) false false) (armedTile { arming with tip := other }), _, _,
      rfl, rfl, rfl, rfl, rfl, by decide, rfl, rfl, rfl, rfl, rfl, rfl, rfl, Nat.le_refl 96, Nat.le_add_right 97 7⟩

/-- A baseline listen of a slot, in the double sweep or not. -/
def floorListen (slot pass : Nat) (sweeping : Bool) (m : Mode) : State :=
  { busy (run .listen (.baseline slot) false false) tile with
    mode := m, baseline := { Baseline.atReset with counter := slot, pass := pass, sweeping := sweeping, owed := 1 } }

theorem witness_RefreshMovesTheFloors : ∀ p ∈ [(0, Mode.active), (23, .active), (22, .dormant), (23, .dormant)],
    ∃ (s : State) (r : Running), s.inReset = false ∧ s.engine.running = some r ∧ r.phase = .listen ∧ s.engine.paths.length = 16 ∧
    silence.length = s.settings.listenLength ∧ (∀ v ∈ silence, v.length = 16) ∧ r.seq.job = .baseline p.1 ∧
    p.1 < 24 ∧ r.seq.abandoned = false ∧ r.seq.disturbed = false ∧ s.baseline.sweeping = false ∧
    s.baseline.table.length = 320 ∧ s.mode = p.2 := by
  intro p hp
  refine ⟨floorListen p.1 1 false p.2, _, rfl, rfl, rfl, rfl, rfl, by decide, rfl, ?_, rfl, rfl, rfl, ?_, rfl⟩
  · revert p; decide
  · exact List.length_replicate

theorem witness_SweepWritesEachRecordOncePerPass : ∀ p ∈ [(0, 1), (22, 2), (23, 1), (23, 2)],
    ∃ (s : State) (r : Running), s.inReset = false ∧ s.engine.running = some r ∧ r.phase = .listen ∧ s.engine.paths.length = 16 ∧
    silence.length = s.settings.listenLength ∧ (∀ v ∈ silence, v.length = 16) ∧ r.seq.job = .baseline p.1 ∧
    p.1 < 24 ∧ r.seq.abandoned = false ∧ r.seq.disturbed = false ∧ s.baseline.sweeping = true ∧
    s.baseline.table.length = 320 ∧ s.baseline.counter = p.1 ∧ (s.baseline.pass = 1 ∨ s.baseline.pass = 2) ∧
    s.baseline.pass = p.2 ∧ s.seek.pass = none ∧ s.seek.turn = .A := by
  intro p hp
  refine ⟨floorListen p.1 p.2 true .start, _, rfl, rfl, rfl, rfl, rfl, by decide, rfl, ?_, rfl, rfl, rfl, ?_, rfl, ?_, rfl, rfl, rfl⟩
  · revert p; decide
  · exact List.length_replicate
  · show p.2 = 1 ∨ p.2 = 2
    revert p; decide

theorem witness_TileTimersExpire : tile.inReset = false ∧ tile.baseline.timer = some 5000000 ∧ tile.dormant = some 9000000 :=
  ⟨rfl, rfl, rfl⟩

theorem witness_SeekTimersBeginAPass :
    (∀ turn, ∃ s : State, s.inReset = false ∧ s.seek.pass = none ∧ s.seek.timer = some 3000000 ∧ s.seek.turn = turn ∧
      s.seeks turn = true) ∧
    (∃ s : State, s.inReset = false ∧ s.seek.pass = none ∧ s.seek.backoff = some 3000000 ∧ s.seeks .B = true ∧
      s.seeks s.seek.turn = false) ∧
    ∃ s : State, s.inReset = false ∧ s.seek.pass = none ∧ s.seek.timer = some 3000000 ∧ ∀ c, s.seeks c = false :=
  ⟨fun turn => ⟨{ tile with seek := { tile.seek with turn := turn } }, rfl, rfl, rfl, rfl, by cases turn <;> rfl⟩,
    ⟨{ held none recordMid with seek := { tile.seek with timer := none, backoff := some 3000000 } }, rfl, rfl, rfl, rfl, rfl⟩,
    ⟨{ held none recordMid with chanB := heldChan none recordMid penTen }, rfl, rfl, rfl, by intro c; cases c <;> rfl⟩⟩

/-- A claim of channel A with the best other sighting heard. -/
def claimOf (best : Option (Nat × Nat)) : Claim where
  strength := 9000
  coarseX := 100
  coarseY := 40
  best := best
  timer := 3500000

/-- A tile that claims channel A, with a cycle of an earlier hold still abandoned or not. -/
def claiming (best : Option (Nat × Nat)) (abandoned : Option Cycle) : State :=
  withA { Channel.atReset with state := .claim (claimOf best), abandoned := abandoned } tile

/-- What follows kind and origin in the tile's own SIGHTING come back. -/
def sightingBack (c : Chan) : List Byte := ((Frame.sighting c 9000 100 40).encode 10 1).drop 2

/-- An own SIGHTING come back without its fields but the channel, of 6 octets. -/
def shortBack (c : Chan) : List Byte := (withCrc [kindByte .sighting, byteOf 10, 1, byteOf (chanIndex c)]).drop 2

/-- An own SIGHTING come back with 24 octets. -/
def longBack (c : Chan) : List Byte :=
  (withCrc ([kindByte .sighting, byteOf 10, 1, byteOf (chanIndex c)] ++ List.replicate 18 0)).drop 2

/-- An own frame of a kind come back with a channel octet that names no channel. -/
def noChannelBack (k : Kind) : List Byte := (withCrc [kindByte k, byteOf 10, 1, 2]).drop 2

theorem witness_ClaimIsDecided :
    (∀ best a, (claiming best a).inReset = false ∧ ((claiming best a).chan .A).state = .claim (claimOf best) ∧
      ((claiming best a).chan .A).abandoned = a ∧ (claiming best a).link.up = true) ∧
    (∀ p ∈ [(9000, 11, true), (9000, 9, false), (9001, 11, false), (8999, 9, true)],
      ((p.1 < 9000 ∨ (p.1 = 9000 ∧ tile.straps.row.val * 8 + tile.straps.col.val < p.2.1)) ↔ p.2.2 = true)) ∧
    (∀ c ∈ [Chan.A, .B], ∀ rest ∈ [sightingBack c, shortBack c, longBack c], 3 ≤ rest.length ∧ rest.length ≤ 22 ∧
      crcGood (kindByte .sighting :: byteOf 10 :: rest) = true ∧
      octetAt (kindByte .sighting :: byteOf 10 :: rest) 3 = chanIndex c) ∧
    (∀ d k, octetAt (kindByte .sighting :: byteOf 10 :: sightingBack .B) 3 = chanIndex d →
      ((claiming none none).chan d).state ≠ .claim k) ∧
    (ownIndex tile.straps = 10 ∧ ∀ d k, (tile.chan d).state ≠ .claim k) ∧
    3 ≤ (noChannelBack .sighting).length ∧ (noChannelBack .sighting).length ≤ 22 ∧
      crcGood (kindByte .sighting :: byteOf 10 :: noChannelBack .sighting) = true ∧
      ∀ d, octetAt (kindByte .sighting :: byteOf 10 :: noChannelBack .sighting) 3 ≠ chanIndex d := by
  refine ⟨fun _ _ => ⟨rfl, rfl, rfl, rfl⟩, by decide, by decide +kernel, fun d k h => ?_, ⟨by decide, ?_⟩, by decide, by decide,
    by decide +kernel, ?_⟩
  · cases d
    · exact absurd h (by decide +kernel)
    · nofun
  · intro d k; cases d <;> nofun
  · intro d; cases d <;> decide +kernel

/-- An own SIGHTING of the wrong length that returns decides the claim (R144). -/
theorem test_short_return : ∃ t, exec (.sightingReturn 0 (shortBack .A)) (claiming none none) = .next t ∧ t.inHold .A = true :=
  ⟨_, rfl, by decide +kernel⟩

theorem witness_ReportTimerStartsACycle :
    (∃ (s : State) (cs : CycleState) (n : Nat) (pen : Pen), s.inReset = false ∧ (s.chan .A).cycles = some cs ∧ (s.chan .A).state = .hold ∧ cs.current = none ∧
      (s.chan .A).abandoned = none ∧ cs.number = some n ∧ (s.chan .A).pen = some pen) ∧
    (∃ (s : State) (cs : CycleState), s.inReset = false ∧ (s.chan .A).cycles = some cs ∧ (s.chan .A).state = .hold ∧ cs.current ≠ none) ∧
    (∃ (s : State) (cs : CycleState), s.inReset = false ∧ (s.chan .A).cycles = some cs ∧ (s.chan .A).state = .hold ∧
      (s.chan .A).abandoned ≠ none) ∧
    ∃ (s : State) (cs : CycleState), s.inReset = false ∧ (s.chan .A).cycles = some cs ∧ (s.chan .A).state = .yield 3000000 :=
  ⟨⟨held none recordMid, _, _, _, rfl, rfl, rfl, rfl, rfl, rfl, rfl⟩,
    ⟨held (some (cycleIn .tip 1)) recordMid, _, rfl, rfl, rfl, nofun⟩,
    ⟨withA firstWaits tile, _, rfl, rfl, rfl, nofun⟩,
    ⟨withA { heldChan none recordMid penTen with state := .yield 3000000, record := none } tile, _, rfl, rfl, rfl⟩⟩

/-- What follows kind and origin in the tile's own NOTICE come back. -/
def noticeBack (n : Nat) : List Byte := ((Frame.notice .A n 60000 ⟨none, 0⟩ ⟨none, 0⟩).encode 10 1).drop 2

theorem witness_BarrierIsReached :
    (∀ ph, ∃ (s : State) (cs : CycleState) (cy : Cycle) (rec : CycleRecord), s.inReset = false ∧ (s.chan .A).cycles = some cs ∧ cs.current = some cy ∧
      (s.chan .A).record = some rec ∧ cy.barrier = some 2500000 ∧ s.link.up = true ∧ cy.phase = ph ∧
      cs.number = some 7 ∧ ownIndex s.straps = 10) ∧
    ∀ n ∈ [7, 8], 3 ≤ (noticeBack n).length ∧ (noticeBack n).length ≤ 22 ∧
      crcGood (kindByte .notice :: byteOf 10 :: noticeBack n) = true ∧
      octetAt (kindByte .notice :: byteOf 10 :: noticeBack n) 3 = chanIndex .A ∧
      word2 (kindByte .notice :: byteOf 10 :: noticeBack n) 4 = n :=
  ⟨fun ph => ⟨held (some (cycleIn ph 1)) recordMid, _, _, _, rfl, rfl, rfl, rfl, rfl, rfl, rfl, rfl, rfl⟩, by decide +kernel⟩

theorem witness_BarrierIsReached_passedOver :
    (∀ s ∈ [tile, held none recordMid, withA { Channel.atReset with state := .seek, abandoned := some (cycleIn .tip 1) } tile],
      s.inReset = false ∧ s.link.up = true ∧ ownIndex s.straps = 10 ∧
        ∀ cs ∈ (s.chan .A).cycles, cs.current = none) ∧
    3 ≤ (noChannelBack .notice).length ∧ (noChannelBack .notice).length ≤ 22 ∧
      crcGood (kindByte .notice :: byteOf 10 :: noChannelBack .notice) = true ∧
      octetAt (kindByte .notice :: byteOf 10 :: noChannelBack .notice) 3 ≠ chanIndex .A ∧
      octetAt (kindByte .notice :: byteOf 10 :: noChannelBack .notice) 3 ≠ chanIndex .B := by
  refine ⟨by decide, ?_⟩
  decide +kernel

/-- Frames come to the tile 10 that is ready for them. -/
theorem arrives_of {k : Kind} {o : List Byte} {f : Frame} {s : State}
    (hs : s.inReset = false ∧ s.tracking = true ∧ s.link.up = true ∧ s.link.buffer.length < 2 ∧
      ownIndex s.straps = 10 ∧ s.enabled .A = true ∧ s.enabled .B = true)
    (hf : crcGood o = true ∧ frameKind o = some k ∧ originOf o ≠ 10 ∧ hopOf o < 31 ∧ readCopy k o = some f) :
    Arrives k o f s := by
  obtain ⟨h1, h2, h3, h4, h5, h6, h7⟩ := hs
  obtain ⟨g1, g2, g3, g4, g5⟩ := hf
  exact ⟨h1, h2, h3, h4, g1, g2, by rw [h5]; exact g3, g4, g5, fun c _ => by cases c <;> assumption⟩

/-- Tile 10 with channel A in a state that needs no record. -/
def inState (st : ChanState) : State := withA { Channel.atReset with state := st } tile

theorem arrives_inState {k : Kind} {o : List Byte} {f : Frame} (st : ChanState)
    (hf : crcGood o = true ∧ frameKind o = some k ∧ originOf o ≠ 10 ∧ hopOf o < 31 ∧ readCopy k o = some f) :
    Arrives k o f (inState st) :=
  arrives_of ⟨rfl, rfl, rfl, Nat.two_pos, rfl, rfl, rfl⟩ hf

theorem witness_WaitingChannelsMoveOn :
    (∃ (s : State) (cs : CycleState), s.inReset = false ∧ (s.chan .A).state = .yield 3000000 ∧ (s.chan .A).cycles = some cs) ∧
    (∀ st ∈ [ChanState.defer 3000000, .standby 9 3000000], (inState st).inReset = false ∧
      ((inState st).chan .A).state = st ∧ (inState st).seek.timer ≠ none) ∧
    (∀ st ∈ [ChanState.defer 3000000, .standby 9 3000000], ∀ turn, ∃ s : State, s.inReset = false ∧
      (s.chan .A).state = st ∧ s.seek.timer = none ∧ s.seek.backoff = none ∧ s.seek.pass = none ∧
      s.seek.turn = turn ∧
      ∃ d, let b := ({ s with now := max s.now 3000000 }.setChan .A { s.chan .A with state := .seek }).timed
        b.seeks d = true ∧ (d = turn ∨ b.seeks turn = false)) ∧
    ∀ st ∈ [ChanState.defer 3000000, .standby 9 3000000, .standby 12 3000000],
      Arrives .lost ((Frame.lost .A 7).encode 9 30) (.lost .A 7) (inState st) := by
  refine ⟨⟨withA { heldChan none recordMid penTen with state := .yield 3000000, record := none } tile, _, rfl, rfl, rfl⟩,
    fun st _ => ⟨rfl, rfl, nofun⟩, fun st _ turn => ?_, fun st _ => arrives_inState st (by decide +kernel)⟩
  refine ⟨{ inState st with
    seek := { tile.seek with timer := none, turn := turn }, chanB := heldChan none recordMid penTen }, rfl, rfl, rfl,
    rfl, rfl, rfl, .A, rfl, ?_⟩
  cases turn
  · exact .inl rfl
  · exact .inr rfl

theorem witness_ArmingRecordAgesOut : ∀ a ∈ [arming, { arming with tip := some [(5, true)] },
      { arming with collar := some [(5, true)] }, { arming with tip := some [], collar := some [] }],
    (armedTile a).inReset = false ∧ ((armedTile a).chan .A).arming = some a := fun _ _ => ⟨rfl, rfl⟩

/-- Tile 10 with link-in DOWN after some valid symbols. -/
def linkDown (count : Nat) : State :=
  { tile with link := { tile.link with up := false, count := count, silence := some 1100000 } }

theorem witness_LinkInCountsSymbols :
    (∀ n ∈ [1, 53, 54], (linkDown 10).inReset = false ∧ (linkDown 10).link.up = false ∧
      List.replicate n (codeGroup false .idle) ≠ [] ∧
      (∀ g ∈ List.replicate n (codeGroup false .idle), classify g ≠ .invalid) ∧
      ((linkDown 10).link.count + n < 64 ↔ n ≠ 54) ∧ (n = 54 → (linkDown 10).link.count + n = 64)) ∧
    classify 0 = .invalid ∧ (∃ t, exec (.linkInUp 0 [0]) (linkDown 63) = .next t) ∧
    (linkDown 10).link.silence = some 1100000 :=
  ⟨by decide +kernel, by decide +kernel, ⟨_, rfl⟩, rfl⟩

theorem witness_FramesAreGathered :
    (tile.inReset = false ∧ tile.link.up = true) ∧
    (∀ o, { tile with link := { tile.link with reception := some o } }.link.reception = some o) ∧
    classify (codeGroup true .idle) = .idle ∧ classify (codeGroup true .stop) = .stop ∧ (List.replicate 4 (0 : Byte)).length < 5 ∧
    classify (codeGroup true (.data 7)) = .data 7 ∧ classify 1023 = .invalid ∧ classify (codeGroup true .start) = .start := by
  refine ⟨⟨rfl, rfl⟩, fun _ => rfl, ?_⟩
  decide +kernel

theorem witness_FramesPassTheLinksChecks :
    (crcGood [1, 2, 3, 4, 5] = false) ∧
    (∀ f ∈ [Frame.restart, .lost .A 7, .lost .B 7], ∀ h ∈ [0, 30, 31], crcGood (f.encode 9 h) = true ∧
      crcGood (f.encode 10 h) = true ∧ originOf (f.encode 10 h) = ownIndex tile.straps ∧
      originOf (f.encode 9 h) ≠ ownIndex tile.straps ∧ octetAt (f.encode 10 h) 0 ≠ 17 ∧
      octetAt (f.encode 10 h) 0 ≠ 18 ∧ (31 ≤ hopOf (f.encode 9 h) ↔ h = 31) ∧
      tile.link.buffer.length < 2 ∧ readCopy f.kind (f.encode 9 h) = some f) ∧
    frameKind (withCrc [99, 9, 0]) = none ∧ readCopy .lost (withCrc [23, 9, 0, 2, 0, 7]) = none ∧
    frameKind (withCrc [23, 9, 0, 2, 0, 7]) = some .lost ∧
    Frame.channel (.lost .B 7) = some .B ∧ { tile with settings := Config.defaultSettings }.enabled .B = false ∧
    ({ tile with mode := .start }).mode = .start ∧ ({ tile with mode := .outside }).mode = .outside := by
  and_intros <;> decide +kernel

/-- One frame for each case of R156 that is not well formed: kind known, length right, CRC good. -/
def illFormed : List (Kind × List Byte) :=
  [(.lost, [23, 30, 0, 0, 0, 7]), (.lost, [23, 14, 0, 0, 0, 7]), (.lost, [23, 9, 0, 2, 0, 7]),
    (.take, [22, 9, 0, 0, 32, 0, 7]), (.notice, [18, 9, 0, 0, 0, 7, 0, 0, 0, 192]),
    (.notice, [18, 9, 0, 0, 0, 7, 0, 0, 0, 12]), (.border, [19, 9, 0, 0, 10, 0, 7, 7] ++ List.replicate 14 0),
    (.report, [20, 9, 0, 4] ++ List.replicate 18 0), (.report, [20, 9, 0, 32] ++ List.replicate 18 0),
    (.yield, [21, 9, 0, 0, 10, 0, 7, 0, 0, 0, 0, 0, 0, 4, 0, 0])]

/-- They are of their kind and length, and no copy of them is acted on (R156). -/
theorem test_ill_formed : ∀ v ∈ illFormed, frameKind (withCrc v.2) = some v.1 ∧ readCopy v.1 (withCrc v.2) = none := by
  decide +kernel

theorem witness_SightingIsCompared : ∀ st ∈ [ChanState.seek, .claim (claimOf none), .claim (claimOf (some (8000, 12))),
      .claim (claimOf (some (8000, 8))), .claim (claimOf (some (7999, 8))), .claim (claimOf (some (8001, 12))),
      .defer 3000000, .standby 9 3000000],
    Arrives .sighting ((Frame.sighting .A 8000 100 40).encode 9 0) (.sighting .A 8000 100 40) (inState st) ∧
      ((inState st).chan .A).state = st :=
  fun st _ => ⟨arrives_inState st (by decide +kernel), rfl⟩

/-- A REPORT of channel A. -/
def someReport : Report where
  ch := .A
  level := 3
  cycle := 65535
  x := 30000
  y := 9000
  pressure := 4095
  tiltX := -443
  tiltY := 443
  flags := { tipDown := true }
  drop := 255
  overrun := 255

theorem witness_HolderIsHeard : ∀ origin ∈ [9, 11],
    (∀ s ∈ [inState .seek, inState (.defer 3000000), inState (.claim (claimOf none)), inState (.standby 9 3000000),
      held none recordMid],
      Arrives .report ((Frame.report someReport).encode origin 0) (.report someReport) s ∧
      Arrives .take ((Frame.take .A 12 7).encode origin 0) (.take .A 12 7) s ∧
      Arrives .take ((Frame.take .A 10 7).encode origin 0) (.take .A (ownIndex s.straps) 7) s) ∧
    (inState .seek).holding .A = false ∧ (held none recordMid).holding .A = true ∧
    ((inState .seek).chan .A).state.unheld := by
  intro origin ho
  have h1 : ∀ origin ∈ [9, 11],
      let o := (Frame.report someReport).encode origin 0
      crcGood o = true ∧ frameKind o = some .report ∧ originOf o ≠ 10 ∧ hopOf o < 31 ∧
        readCopy .report o = some (.report someReport) := by decide +kernel
  have h2 : ∀ origin ∈ [9, 11], ∀ n ∈ [12, 10],
      let o := (Frame.take .A n 7).encode origin 0
      crcGood o = true ∧ frameKind o = some .take ∧ originOf o ≠ 10 ∧ hopOf o < 31 ∧
        readCopy .take o = some (.take .A n 7) := by decide +kernel
  refine ⟨fun s hs => ?_, rfl, rfl, nofun, nofun, nofun⟩
  have hs' : s.inReset = false ∧ s.tracking = true ∧ s.link.up = true ∧ s.link.buffer.length < 2 ∧
      ownIndex s.straps = 10 ∧ s.enabled .A = true ∧ s.enabled .B = true := by
    revert s; decide
  have own : ownIndex s.straps = 10 := hs'.2.2.2.2.1
  exact ⟨arrives_of hs' (h1 origin ho), arrives_of hs' (h2 origin ho 12 (by decide)),
    by rw [own]; exact arrives_of hs' (h2 origin ho 10 (by decide))⟩

theorem witness_NoticeArmsTheNeighbour :
    (∀ p ∈ [(11, (⟨some .low, 1⟩ : WantField), (⟨none, 0⟩ : WantField)), (11, ⟨some .low, 3⟩, ⟨none, 0⟩),
      (9, ⟨some .high, 3⟩, ⟨none, 0⟩), (18, ⟨none, 0⟩, ⟨some .low, 3⟩), (2, ⟨none, 0⟩, ⟨some .high, 3⟩),
      (11, ⟨some .high, 3⟩, ⟨some .low, 3⟩), (11, ⟨some .low, 0⟩, ⟨none, 0⟩)],
      ∀ s ∈ [inState .seek, held none recordMid],
      Arrives .notice ((Frame.notice .A 7 60000 p.2.1 p.2.2).encode p.1 0) (.notice .A 7 60000 p.2.1 p.2.2) s) ∧
    (tile.straps.col.val + 1 = 11 % 8 ∧ tile.straps.col.val = 9 % 8 + 1 ∧ tile.straps.row.val + 1 = 18 / 8 ∧
      tile.straps.row.val = 2 / 8 + 1) := by
  refine ⟨fun p hp s hs => ?_, by decide⟩
  refine arrives_of ?_ ?_
  · revert s; decide
  · revert p; decide +kernel

/-- A YIELD of channel A to a tile. -/
def yieldTo (target : Nat) : YieldFields where
  ch := .A
  target := target
  cycle := 65535
  x := 24600
  y := 9000
  level := 3
  contact := true
  pressure := 4096

theorem witness_YieldIsTaken : ∀ target ∈ [10, 11],
    ∀ s ∈ [inState .seek, inState (.standby 9 3000000), held none recordMid,
      withA { Channel.atReset with state := .seek, abandoned := some (cycleIn .tip 1) } tile],
    Arrives .yield ((Frame.yield (yieldTo target)).encode 9 0) (.yield (yieldTo target)) s ∧
      ((yieldTo target).target = ownIndex s.straps ↔ target = 10) ∧ 0 < s.settings.columns ∧ 0 < s.settings.rows := by
  intro target ht s hs
  refine ⟨arrives_of ?_ ?_, ?_⟩
  · revert s; decide
  · revert target; decide +kernel
  · revert s target; decide

/-- A BORDER of tile 9 for the holder of channel A. -/
def borderFor (holder : Nat) (ax : Axis) : Border where
  ch := .A
  holder := holder
  cycle := 7
  axis := ax
  count := 2
  collarAbsent := false
  tipClipped := false
  collarClipped := true
  first := 94
  tip := [4500, 11202, 0]
  collar := [65535, 1, 0]

theorem witness_BorderIsAccepted :
    (∀ h ∈ [10, 11], ∀ ax ∈ [Axis.X, .Y], ∀ ph ∈ [CyclePhase.collar, .borderWait],
      ∀ s ∈ [held (some (cycleIn ph 1)) recordEdge, held (some (cycleIn ph 1)) recordMid, held none recordMid, inState .seek],
      Arrives .border ((Frame.border (borderFor h ax)).encode 9 0) (.border (borderFor h ax)) s) ∧
    (∀ ph, ∃ (s : State) (cs : CycleState) (cy : Cycle) (rec : CycleRecord) (w : Want), s = held (some (cycleIn ph 1)) recordEdge ∧ (s.chan .A).state = .hold ∧
      (10 : Nat) = ownIndex s.straps ∧ (s.chan .A).cycles = some cs ∧ cs.current = some cy ∧ cs.number = some 7 ∧
      (s.chan .A).record = some rec ∧ cy.phase = ph ∧ rec.want .X = some w ∧ w.supplier = 9 ∧ cy.gotX = false ∧
      rec.wantY = none) ∧
    ∃ w, recordEdge.want .X = some w ∧ w.supplier = 9 ∧ recordEdge.window .X + 8 ≤ axisLoops .X ∧
      ∀ es ∈ [[], profileFrom 96 [1, 2, 3, 4, 5, 6, 7, 8]], es.Pairwise (fun a b : Entry => a.loop < b.loop) ∧
        ∀ e ∈ es, e.source ≠ .border → min (loopAt strapsTen .X (recordEdge.window .X)) (loopAt strapsTen .X (recordEdge.window .X + 7)) ≤ e.loop ∧
          e.loop ≤ min (loopAt strapsTen .X (recordEdge.window .X)) (loopAt strapsTen .X (recordEdge.window .X + 7)) + 7 := by
  refine ⟨fun h hh ax hax ph hph s hs => arrives_of ?_ ?_, fun ph => ⟨held (some (cycleIn ph 1)) recordEdge, _, _, _,
    { side := .low, count := 2, supplier := 9 }, rfl, rfl, rfl, rfl, rfl, rfl, rfl, rfl, by decide, rfl, rfl, by decide⟩,
    { side := .low, count := 2, supplier := 9 }, by decide, rfl, by decide, by decide⟩
  · revert s ph; decide
  · revert h ax; decide +kernel

theorem witness_RestartStartsAfresh :
    (∀ m, { tile with mode := m }.inReset = false ∧ { tile with mode := m }.link.up = true ∧
      { tile with mode := m }.link.buffer.length < 2) ∧
    ∀ hop ∈ [0, 30], let o := Frame.restart.encode 9 hop
      crcGood o = true ∧ frameKind o = some .restart ∧ originOf o ≠ ownIndex tile.straps ∧ hopOf o < 31 :=
  ⟨fun _ => ⟨rfl, rfl, Nat.two_pos⟩, by decide +kernel⟩

theorem witness_ForwardedFrameIsSent : tile.link.buffer = [] ∧ ∃ (s : State) (o : List Byte) (rest : List (List Byte)), s.inReset = false ∧
    s.link.buffer = o :: rest ∧ 5 ≤ o.length ∧ hopOf o < 255 :=
  ⟨rfl, { tile with link := { tile.link with buffer := [Frame.restart.encode 9 30] } }, _, _, rfl, rfl,
    by decide +kernel, by decide +kernel⟩

/-- Own frames of three classes. -/
def queueThree : List Frame := [.report someReport, .notice .A 7 0 ⟨none, 0⟩ ⟨none, 0⟩, .lost .B 7, .take .A 9 7]

theorem witness_OwnFrameIsSent : { tile with link := { tile.link with own := queueThree } }.link.own =
      [.report someReport, .notice .A 7 0 ⟨none, 0⟩ ⟨none, 0⟩] ++ .lost .B 7 :: [.take .A 9 7] ∧ tile.link.buffer = [] ∧
    (∀ x ∈ [Frame.report someReport, .notice .A 7 0 ⟨none, 0⟩ ⟨none, 0⟩], kindClass x.kind < kindClass .lost) ∧
    (∀ x ∈ [Frame.take .A 9 7], kindClass x.kind ≤ kindClass .lost) ∧ tile.inReset = false ∧
    ({ tile with link := { tile.link with buffer := [[]] } }).link.buffer ≠ [] ∧ tile.link.own = [] := by
  decide

theorem witness_OverflowDiscardsTheLeast :
    (List.replicate 7 (Frame.lost .A 7)).length < 8 ∧ 8 ≤ (queueThree ++ queueThree).length ∧
    queueThree ++ queueThree = [] ++ .report someReport :: (queueThree.drop 1 ++ queueThree) ∧
    (8 ≤ (List.replicate 8 (Frame.lost .A 7)).length ∧ ∀ x ∈ List.replicate 8 (Frame.lost .A 7), x.kind ≠ .report) ∧
    (Frame.report someReport).kind = .report ∧
    (let l := List.replicate 7 (Frame.lost .A 7) ++ [.border (borderFor 9 .X)];
      8 ≤ l.length ∧ (∀ x ∈ l, x.kind ≠ .report) ∧
      l ++ [.lost .B 7] = List.replicate 7 (Frame.lost .A 7) ++ .border (borderFor 9 .X) :: [.lost .B 7] ∧
      (∀ y ∈ List.replicate 7 (Frame.lost .A 7), kindClass .border < kindClass y.kind) ∧
      ∀ y ∈ [Frame.lost .B 7], kindClass .border ≤ kindClass y.kind) := by
  decide

theorem witness_FrameRoundTrip : ∀ f ∈ [Frame.restart, .lost .B 65535, .take .A 31 65535, .report someReport,
    .yield (yieldTo 31), .border (borderFor 31 .Y), .sighting .A 16777215 65535 65535,
    .notice .B 65535 16777215 ⟨some .low, 3⟩ ⟨some .high, 3⟩], f.fits = true := by decide

theorem witness_SentBitsAreReceivedAsOctets : (∀ x ∈ [Symbol.idle, .start, .stop, .data 0, .data 255], x ≠ .invalid) ∧
    tile.inReset = false := by decide

theorem witness_MagnitudeOfAReading :
    (∀ v : Nat, ∃ p : Machine.Path, p.i.natAbs = v ∧ p.q.natAbs = v) ∧
    (∀ j ∈ [0, 7, 8, 15], tile.engine.paths[j]? = some { i := 0, q := 0, clipped := false }) ∧
    deadLoop tile.settings (40 + 7) = false ∧ deadLoop tile.settings (48 + (24 + 7)) = false :=
  ⟨fun v => ⟨⟨v, v, false⟩, Int.natAbs_natCast v, Int.natAbs_natCast v⟩, by decide, rfl, rfl⟩

theorem witness_ResultsFormOwnEntries : (40 ≤ 40 ∧ 24 ≤ 24) ∧
    (∀ es ∈ [[], [(⟨94, 40, .border, false⟩ : Entry), ⟨95, 80, .border, false⟩]],
      es.Pairwise (fun a b => a.loop < b.loop) ∧
        ∀ e ∈ es, e.source = .border ∧ ∀ n, n < 8 → e.loop ≠ loopAt strapsTen .X (40 + n)) ∧
    (∀ n, n < 8 → deadLoop tile.settings (tileLoop .X (40 + n)) = false) ∧
    ∃ s : State, ∀ n, n < 8 → ¬ deadLoop s.settings (tileLoop .X (0 + n)) = false :=
  ⟨by decide, by decide, by decide, { tile with settings := { settingsTen with dead := List.range 8 } }, by decide⟩

theorem witness_CyclePlacesWindowsAndWants :
    (let lo := strapsTen.col.val * 48; 98 < lo + 3 ∧ lo + 3 ≤ 99 ∧ 140 ≤ lo + 44 ∧ lo + 44 < 141) ∧
    (let lo := strapsTen.row.val * 32; 34 < lo + 3 ∧ lo + 3 ≤ 35 ∧ 60 ≤ lo + 28 ∧ lo + 28 < 61) := by decide

theorem witness_PeakIsInterpolated :
    (∀ l ∈ [[9], [5, 9], [9, 5], [5, 9, 9], [4, 9, 8, 7]], let es := profileFrom 60 l
      ∀ k, ∀ h : k < es.length, es[k].loop = es[0].loop + k) ∧
    (∀ x ∈ profileFrom 60 [4], x.amp < 9) ∧ (∀ x ∈ profileFrom 62 [9, 7], x.amp ≤ 9) := by decide

theorem witness_StrongCycleIsEstimated : ∃ (r : CycleRecord) (best : Strongest), r.strongest = some best ∧
    settingsTen.lossThreshold ≤ (peakEntry r.tipX).amp * 2 ^ (3 - 3) ∧ 0 < best.i :=
  ⟨{ recordTen with tipX := profileFrom 99 [3000] }, _, rfl, by decide, by decide⟩

theorem witness_WeakCycleIsHeld : (peakEntry (profileFrom 99 [2999])).amp * 2 ^ (3 - 3) < settingsTen.lossThreshold ∧
    { penTen with weakCount := 3 }.weakCount ≤ 3 := by decide

/-- A tracking tile with a command at the front of its queue. -/
def working : State := { tile with pending := [.refreshTimerExpiry] }

theorem witness_StepsKeepTheRanges : ∃ t, RangesLawful working ∧ step working = .next t := by
  refine ⟨_, ⟨.nil, by unfold LinkBounded; decide, ⟨by decide, by decide, .inl rfl, List.length_replicate⟩, ?_, ?_, ?_⟩, rfl⟩
  · exact ⟨by decide, nofun, nofun⟩
  · exact ⟨by decide, nofun, nofun⟩
  · unfold LfsrBounded; decide

theorem witness_StepsKeepTheRing : ∃ t, RingLawful working ∧ step working = .next t :=
  ⟨_, ⟨nofun, nofun, nofun⟩, rfl⟩

theorem witness_StepsKeepTheMasks : ∃ t, MaskLawful working ∧ step working = .next t := by
  refine ⟨_, ⟨rfl, fun f hf => ⟨fun h => ?_, fun ⟨_, h, _⟩ => nomatch h⟩, nofun⟩, rfl⟩
  revert f
  decide

theorem witness_StepsKeepTheReadings : ∃ t, ReadingsLawful working ∧ step working = .next t := by
  refine ⟨_, ⟨by decide, rfl, by decide, nofun, fun fl h => ?_⟩, rfl⟩
  rw [List.eq_of_mem_replicate h]
  decide

theorem witness_StepsKeepTheTracker : ∃ t, TrackerLawful working ∧ step working = .next t := by
  refine ⟨_, ⟨nofun, nofun, ⟨by decide, by decide⟩, ⟨by decide, nofun⟩, ⟨nofun, by decide, nofun⟩, ⟨rfl, rfl, rfl⟩,
    ⟨rfl, rfl, rfl⟩, nofun, nofun, (fun _ _ h => nomatch h), (fun _ _ h => nomatch h), ⟨.nil, nofun, (fun _ _ _ h => nomatch h)⟩, nofun⟩, rfl⟩

/-- A tile that runs the tip sequence of channel A while a seek request of channel B waits. -/
def atWork : State :=
  { held (some { cycleIn .tip 1 with barrier := none, border := none }) recordMid with
    pending := [.dampEnd false none]
    engine := { running := some (run .damp (.tip .A) false false), paths := Engine.atReset.paths }
    queue := [⟨.B, .seekX 0⟩]
    seek := { tile.seek with pass := some { ch := .B, stage := .x 0 }, timer := none }
    dormant := none }

theorem witness_StepsKeepTheTracker_atWork : ∃ t, TrackerLawful atWork ∧ step atWork = .next t := by
  refine ⟨_, ⟨nofun, nofun, ⟨by decide, by decide⟩, ⟨by decide, nofun⟩, ⟨?_, by decide, nofun⟩, ⟨rfl, rfl, rfl⟩,
    ⟨rfl, rfl, rfl⟩, nofun, nofun, ?_, (fun _ _ h => nomatch h), ⟨List.pairwise_singleton _ _, ?_, ?_⟩, nofun⟩, rfl⟩
  · rintro _ ⟨⟩; exact ⟨rfl, rfl, rfl⟩
  · rintro _ _ ⟨⟩ ⟨⟩; exact ⟨nofun, nofun, nofun⟩
  · intro q h; rw [List.mem_singleton.mp h]; exact ⟨rfl, _, rfl, rfl⟩
  · rintro _ _ _ ⟨⟩ ⟨⟩ _
    refine ⟨⟨rfl, _, _, rfl, rfl, rfl⟩, fun q h => ?_⟩
    rw [List.mem_singleton.mp h]; nofun

theorem witness_StepsKeepTheReports : ∃ t, ReportsLawful working ∧ step working = .next t := by
  refine ⟨_, ⟨nofun, nofun, ?_, fun _ => rfl, nofun, nofun, ⟨nofun, nofun⟩, ⟨nofun, nofun⟩, fun r h => ?_⟩, rfl⟩
  · unfold SettingsLawful
    and_intros <;> first | exact List.length_replicate | decide
  · exact absurd h (List.not_mem_nil)

end Sys2Proof.Tests
end

section
/-! PROOFS. The windows and border wants of a cycle, and the yield test (R9, R12, R59, R60, R126, R127). -/

namespace Sys2Proof.Machine

/-! ### Wants and windows at a cycle's start -/

/-- The nearest own loop lies between the lowest and the highest own loop (R9). -/
theorem nearestOwn_eq_max_min (st : Straps) (ax : Axis) (p : Nat) :
    nearestOwn st ax p = max (ownLo st ax) (min (ownHi st ax) p) := by
  have hle : ownLo st ax ≤ ownHi st ax := Nat.le_add_right _ _
  unfold nearestOwn clampNat
  split_ifs <;> omega

/-- A want with a count above 0 stands exactly when its neighbour exists (R60). -/
theorem wantOn_of_pos {count : Nat} (st : Straps) (set : Settings) (ax : Axis) (side : Side) (h : 0 < count) :
    wantOn st set ax side count =
      (neighbour st set ax side).map fun t => { side := side, count := count, supplier := t } := by
  unfold wantOn
  cases neighbour st set ax side <;> simp [Nat.succ_le_iff, h]

/-- No want stands with a count of 0 (R60). -/
@[simp] theorem wantOn_zero (st : Straps) (set : Settings) (ax : Axis) (side : Side) :
    wantOn st set ax side 0 = none := by
  unfold wantOn
  cases neighbour st set ax side <;> rfl

/-- Near the low edge of the tile the low neighbour is asked, and no other (R60). -/
theorem borderWant_of_near_low {st : Straps} {ax : Axis} {p : Nat} (set : Settings)
    (h : nearestOwn st ax p < ownLo st ax + 3) :
    borderWant st set ax p =
      (neighbour st set ax .low).map fun t =>
        { side := .low, count := ownLo st ax + 3 - nearestOwn st ax p, supplier := t } := by
  have hlo : ownLo st ax ≤ nearestOwn st ax p := by rw [nearestOwn_eq_max_min]; exact le_max_left _ _
  have hcount : 3 - (nearestOwn st ax p - ownLo st ax) = ownLo st ax + 3 - nearestOwn st ax p := by omega
  have hhigh : 3 - (ownHi st ax - nearestOwn st ax p) = 0 := by
    have hwide : ownLo st ax + 31 ≤ ownHi st ax := by cases ax <;> simp [ownHi, ownLo, axisLoops]
    omega
  unfold borderWant
  rw [hcount, hhigh, wantOn_of_pos _ _ _ _ (by omega), wantOn_zero]
  cases neighbour st set ax .low <;> rfl

/-- Away from the low edge the high neighbour alone may be asked (R60). -/
theorem borderWant_of_not_near_low {st : Straps} {ax : Axis} {p : Nat} (set : Settings)
    (h : ownLo st ax + 3 ≤ nearestOwn st ax p) :
    borderWant st set ax p = wantOn st set ax .high (3 - (ownHi st ax - nearestOwn st ax p)) := by
  have hlow : 3 - (nearestOwn st ax p - ownLo st ax) = 0 := by omega
  unfold borderWant
  rw [hlow, wantOn_zero]

/-- Near the high edge of the tile the high neighbour is asked, and no other (R60). -/
theorem borderWant_of_near_high {st : Straps} {ax : Axis} {p : Nat} (set : Settings)
    (h : ownHi st ax - 3 < nearestOwn st ax p) :
    borderWant st set ax p =
      (neighbour st set ax .high).map fun t =>
        { side := .high, count := nearestOwn st ax p - (ownHi st ax - 3), supplier := t } := by
  have hhi : nearestOwn st ax p ≤ ownHi st ax := by
    rw [nearestOwn_eq_max_min]; exact max_le (Nat.le_add_right _ _) (min_le_left _ _)
  have hwide : ownLo st ax + 31 ≤ ownHi st ax := by cases ax <;> simp [ownHi, ownLo, axisLoops]
  have hcount : 3 - (ownHi st ax - nearestOwn st ax p) = nearestOwn st ax p - (ownHi st ax - 3) := by omega
  rw [borderWant_of_not_near_low set (by omega), hcount, wantOn_of_pos _ _ _ _ (by omega)]

/-- Three loops and more from both edges nothing is wanted (R60). -/
theorem borderWant_of_inside {st : Straps} {ax : Axis} {p : Nat} (set : Settings)
    (hlo : ownLo st ax + 3 ≤ nearestOwn st ax p) (hhi : nearestOwn st ax p ≤ ownHi st ax - 3) :
    borderWant st set ax p = none := by
  have hwide : ownLo st ax + 31 ≤ ownHi st ax := by cases ax <;> simp [ownHi, ownLo, axisLoops]
  have hcount : 3 - (ownHi st ax - nearestOwn st ax p) = 0 := by omega
  rw [borderWant_of_not_near_low set hlo, hcount, wantOn_zero]

/-- Settles O49: the window and the want of each axis follow the nearest own loop to its last tip peak. -/
theorem cyclePlacesWindowsAndWants : Obligations.CyclePlacesWindowsAndWants := by
  intro st set p n r lo near local' lowY nearY localY
  have hx : nearestOwn st .X p.peakX = near := nearestOwn_eq_max_min st .X p.peakX
  have hy : nearestOwn st .Y p.peakY = nearY := nearestOwn_eq_max_min st .Y p.peakY
  refine ⟨rfl, ?windowX, ?windowY, fun h => ?lowX, fun h => ?highX, fun h h' => ?insideX,
    fun h => ?lowY, fun h => ?highY, fun h h' => ?insideY, rfl, rfl, rfl, rfl, rfl, rfl, rfl, rfl, rfl⟩
  case windowX => show min (toLocal st .X (nearestOwn st .X p.peakX) - 3) 40 = _; rw [hx]; rfl
  case windowY => show min (toLocal st .Y (nearestOwn st .Y p.peakY) - 3) 24 = _; rw [hy]; rfl
  case lowX =>
    rw [← hx] at h ⊢
    refine (borderWant_of_near_low set h).trans ?_
    simp only [neighbour, apply_ite (Option.map _)]; rfl
  case highX =>
    have hend : ownHi st .X - 3 = lo + 44 := rfl
    rw [← hx, ← hend] at h ⊢
    refine (borderWant_of_near_high set h).trans ?_
    simp only [neighbour, apply_ite (Option.map _)]; rfl
  case insideX => rw [← hx] at h h'; exact borderWant_of_inside set h h'
  case lowY =>
    rw [← hy] at h ⊢
    refine (borderWant_of_near_low set h).trans ?_
    simp only [neighbour, apply_ite (Option.map _)]; rfl
  case highY =>
    have hend : ownHi st .Y - 3 = lowY + 28 := rfl
    rw [← hy, ← hend] at h ⊢
    refine (borderWant_of_near_high set h).trans ?_
    simp only [neighbour, apply_ite (Option.map _)]; rfl
  case insideY => rw [← hy] at h h'; exact borderWant_of_inside set h h'

/-! ### The yield test -/

/-- The yield test passes exactly when the position is past a border of the span by 128 units (R126). -/
theorem yieldCalled_iff (st : Straps) (x y : Nat) : yieldCalled st x y = true ↔
    x + 128 ≤ st.col.val * 12288 ∨ st.col.val * 12288 + 12287 + 128 ≤ x ∨
      y + 128 ≤ st.row.val * 8192 ∨ st.row.val * 8192 + 8191 + 128 ≤ y := by
  unfold yieldCalled
  rw [Bool.or_eq_true, pastBorder_iff, pastBorder_iff]
  simp only [place, tileUnits, axisLoops, or_assoc]

/-- The owning tile of a point, in surface units (R12). -/
theorem ownerOf_eq (x y : Nat) : ownerOf x y = y / 8192 * 8 + x / 12288 := rfl

/-- The channel in YIELD with its YIELD queued, as one update (R127). -/
theorem enterYield_queueFrame (c : Chan) (f : Frame) (s : State) :
    enterYield c (queueFrame f s) =
      { s with link := s.link.push f }.setChan c
        { s.chan c with state := .yield (s.now + msec 2), record := none } := by
  unfold enterYield
  rw [modChan_eq, queueFrame_chan]
  rfl

/-- Settles O19: the three outcomes of the yield test, one per branch of `yieldTest`. -/
theorem yieldTestHandsOver : Obligations.YieldTestHandsOver := by
  intro s c ct n cs pen hcs hpen past
  have hcalled : yieldCalled s.straps ct.x ct.y = true ↔ past := yieldCalled_iff s.straps ct.x ct.y
  refine ⟨fun hpos => ?_, fun hzero hnot => ?_, fun hzero hpast => ?_⟩
  · simp [yieldTest, hpos, setSpacing, modChan_eq, hcs]
  · simp [yieldTest, hzero, hcalled, hnot]
  · simp [yieldTest, hzero, hcalled, hpast, enterYield_queueFrame, yieldOf, hpen, ownerOf_eq]

end Sys2Proof.Machine
end

section
/-! PROOFS. RESET_END, IMAGE_LOADED, the ends of DRIVE and SETTLE, and FIELD_FALL (R5, R16 to R31, R50, R162). -/

namespace Sys2Proof.Machine

/-! ### RESET_END and the EEPROM's pins -/

/-- The bits of the read instruction 3 and the two address octets (R162). -/
theorem sentBits_getElem? : ∀ bit < 24, sentBits[bit]? = some (decide (bit = 6 ∨ bit = 7)) := by decide

/-- RESET_END of a part held in reset: the start sequence at the end of the hold (R165). -/
theorem exec_resetEnd_of_inReset (dt : Nat) (st : Straps) {s : State} (hr : s.inReset = true) :
    exec (.resetEnd dt st) s = .next (leaveReset st (reach s.resetUntil (elapse dt s))) := by
  simp [exec, execResetEnd, hr]

/-- Settles O5: the state RESET_END leaves, and the pins at each moment of its transfer, after it and without one. -/
theorem resetEndBeginsTheStartSequence : Obligations.ResetEndBeginsTheStartSequence := by
  intro dt st s hr begun t
  have hread : t.loader.readEnds = some (begun + usec (131 * 8)) := rfl
  refine ⟨exec_resetEnd_of_inReset dt st hr, fun bit d hbit hd => ?transfer, fun m hm => ?ended,
    fun u m hu => ?idle⟩
  case transfer =>
    intro pins
    have hmoment : begun + usec bit + d < begun + usec (131 * 8) := by simp only [usec] at hd ⊢; omega
    have hinto : readTime - (begun + usec (131 * 8) - (begun + usec bit + d)) = usec bit + d := by
      have hlen : readTime = usec (131 * 8) := rfl
      simp only [hlen, usec] at hmoment ⊢; omega
    have hpins : pins = _ := eepromPins_of_reading _ _ bit d t hread hmoment hinto hd
    rw [hpins]
    refine ⟨rfl, decide_eq_true_iff, fun h24 => ?_⟩
    simp only [sentBits_getElem? bit h24, decide_eq_true_iff]
  case ended =>
    simp only [State.eepromPins, hread, if_neg (Nat.not_lt.2 hm), and_self]
  case idle => simp only [State.eepromPins, hu, and_self]

/-! ### IMAGE_LOADED -/

/-- A granted refresh is a baseline listen of the slot the counter names (R18, R46). -/
theorem grantRefresh_eq_listening (s : State) : grantRefresh s = s.listening s.baseline.counter := by
  have hx : windowIn .X (8 * slotX s.baseline.counter) = 8 * (s.baseline.counter % 6) := by
    simp only [windowIn, axisLoops, slotX]; omega
  have hy : windowIn .Y (8 * slotY s.baseline.counter) = 8 * (s.baseline.counter % 6 % 4) := by
    simp only [windowIn, axisLoops, slotY]; omega
  rw [grantRefresh, baselineSequence, hx, hy]; rfl

/-- With no request waiting, an idle engine is granted the refresh that stands (R33). -/
theorem grant_of_only_refresh {s : State} (hidle : s.engine.running = none) (hmode : s.mode ≠ .outside)
    (hq : s.queue = []) (h1 : 1 ≤ s.baseline.owed) : grant s = s.listening s.baseline.counter := by
  have hs : { s with queue := [] } = s := by rw [← hq]
  simp [grant, hidle, hmode, choose, hq, pick, hs, refreshStands, h1, grantRefresh_eq_listening]

/-- IMAGE_LOADED at the end of a read: the image, then the straps against the extent (R162). -/
theorem exec_imageLoaded_of_reading (o : List Byte) {s : State} {ends : Nat} (hr : s.inReset = false)
    (hread : s.loader.readEnds = some ends) :
    exec (.imageLoaded o) s = .next (compareExtent (loadImage (clockedIn o) (reach ends s))) := by
  simp [exec, execImageLoaded, unlessReset, hr, imageLoads, hread]

/-- What the image check sets: loader and settings, and nothing else (R163, R164). -/
theorem loadImage_eq (o : List Byte) (s : State) :
    loadImage o s = { s with loader := (loadImage o s).loader, settings := (loadImage o s).settings } := by
  unfold loadImage; split <;> rfl

/-- The tile is strapped beyond the extent (R5). -/
theorem beyondExtent_iff (st : Straps) (set : Settings) :
    beyondExtent st set = true ↔ set.columns ≤ st.col.val ∨ set.rows ≤ st.row.val := by
  simp [beyondExtent]

/-- Beyond the extent the tile is OUTSIDE and nothing else changes (R166). -/
theorem compareExtent_of_beyond {s : State} (h : beyondExtent s.straps s.settings = true) :
    compareExtent s = { s with mode := .outside } := if_pos h

/-- Within the extent the double sweep begins and the idle engine is granted its first listen (R50). -/
theorem compareExtent_of_within {s : State} (h : ¬ beyondExtent s.straps s.settings = true)
    (hidle : s.engine.running = none) (hmode : s.mode ≠ .outside) (hq : s.queue = []) :
    compareExtent s =
      { s with baseline := { s.baseline with counter := 0, pass := 1, owed := 1, sweeping := true } }.listening 0 :=
  (if_neg h).trans (grant_of_only_refresh (s := beginSweep s) hidle hmode hq (Nat.le_refl 1))

/-- Settles O8: `compareExtent` after the image, one case on each side of the extent. -/
theorem extentDecidesTheTileMode : Obligations.ExtentDecidesTheTileMode := by
  intro o s t0 hr hread hmode hidle hq
  obtain ⟨loader, set, hload⟩ : ∃ loader set,
      loadImage (clockedIn o) (reach t0 s) = { reach t0 s with loader := loader, settings := set } :=
    ⟨_, _, loadImage_eq _ _⟩
  rw [exec_imageLoaded_of_reading o hr hread, hload]
  by_cases hb : beyondExtent s.straps set = true
  · refine ⟨_, congrArg _ (compareExtent_of_beyond hb), rfl, fun _ => rfl, fun hin => ?_⟩
    have hout : set.columns ≤ s.straps.col.val ∨ set.rows ≤ s.straps.row.val := (beyondExtent_iff _ _).1 hb
    exact absurd hout (not_or.2 ⟨Nat.not_le.2 hin.1, Nat.not_le.2 hin.2⟩)
  · have hstart : s.mode ≠ .outside := by simp [hmode]
    refine ⟨_, congrArg _ (compareExtent_of_within hb hidle hstart hq), rfl, fun hout => ?_, fun _ => rfl⟩
    exact absurd ((beyondExtent_iff _ _).2 hout) hb

/-! ### The engine's phases and what it does to the loops -/

/-- The end of the phase the engine is in, taken at its moment. -/
theorem phaseEnds_of_running {s : State} {r : Running} {ph : Phase} (f : Sequence → State → State)
    (hrun : s.engine.running = some r) (hp : r.phase = ph) : phaseEnds ph f s = f r.seq (reach r.ends s) := by
  simp [phaseEnds, hrun, hp]

/-- DRIVE_END is the end of DRIVE at its moment (R16). -/
theorem exec_driveEnd {s : State} {r : Running} (foreign : Bool) (hr : s.inReset = false)
    (hrun : s.engine.running = some r) (hp : r.phase = .drive) :
    exec (.driveEnd foreign) s = .next (driveOver foreign r.seq (reach r.ends s)) := by
  simp [exec, execDriveEnd, unlessReset, hr, phaseEnds_of_running _ hrun hp]

/-- SETTLE_END is the entry to LISTEN at its moment (R16). -/
theorem exec_settleEnd {s : State} {r : Running} (hr : s.inReset = false) (hrun : s.engine.running = some r)
    (hp : r.phase = .settle) : exec .settleEnd s = .next (enterPhase .listen r.seq (reach r.ends s)) := by
  simp [exec, execSettleEnd, unlessReset, hr, phaseEnds_of_running _ hrun hp]

/-- A rise reported in SETTLE of a driven sequence's index: the sequence is disturbed and enters DAMP (R28). -/
theorem riseReported_of_settle {s : State} {r : Running} (hrun : s.engine.running = some r) (hp : r.phase = .settle)
    (hd : r.seq.job.driven = true) (l : Sampled) (fall : Option Freq) :
    riseReported r.seq.job.freq l fall s = enterDamp { r.seq with disturbed := true } s := by
  simp [riseReported, hrun, hp, listenOver, hd]

/-- The mask lifts on foreign excitation: the driven sequence is disturbed and masked again in DAMP (R16, R27, R28). -/
theorem driveOver_of_foreign {seq : Sequence} (hd : seq.job.driven = true) (s : State) :
    driveOver true seq s =
      { s with
        detectors := s.detectors.set seq.job.freq .masked
        engine := { s.engine with
          running := some { phase := .damp, ends := s.now + usec 4, seq := { seq with disturbed := true } } } } := by
  have hdamp : driveOver true seq s =
      enterDamp { seq with disturbed := true } (enterPhase .settle seq (unmask seq.job.freq true s)) :=
    riseReported_of_settle (enterPhase_running ..) rfl hd ⟨[], []⟩ none
  rw [hdamp]
  simp [enterDamp, enterPhase, setDetector, unmask, phaseLength]

/-- Settles O9: the loops driven and damped by phase, the frequencies by job, and the phases that follow DRIVE and SETTLE. -/
theorem driveAndSettleRunTheirLengths : Obligations.DriveAndSettleRunTheirLengths := by
  refine ⟨fun s hr => ⟨fun hidle => ?idle, fun r hrun => ?loops⟩, fun c k => ?freq, fun slot => rfl,
    rfl, rfl, rfl, rfl, fun s r hr hrun => ⟨fun hp hd foreign => ?drive, fun hp => ?settle⟩⟩
  case idle => simp [State.drivenLoops, State.dampedLoops, hr, hidle]
  case loops => simp [State.drivenLoops, State.dampedLoops, hr, hrun]
  case freq => cases c <;> cases k <;> exact ⟨rfl, rfl, rfl, rfl, rfl⟩
  case settle => exact exec_settleEnd hr hrun hp
  case drive =>
    rw [exec_driveEnd foreign hr hrun hp]
    cases foreign
    · rfl
    · exact congrArg _ (driveOver_of_foreign hd _)

/-! ### FIELD_FALL -/

/-- FIELD_FALL on an index that is not PRESENT is no fall (R27). -/
theorem fieldFalls_of_not_present {f : Nat} {s : State} (h : detectorAt f s ≠ .present) : fieldFalls f s = s :=
  if_neg h

/-- FIELD_FALL on a PRESENT index is reported with the index QUIET (R27, R30). -/
theorem fieldFalls_of_present {f : Nat} {s : State} (h : detectorAt f s = .present) :
    fieldFalls f s = fallReported f (setDetector f .quiet s) :=
  if_pos h

/-- FIELD_FALL outside reset. -/
theorem exec_fieldFall (dt : Nat) (f : Freq) {s : State} (hr : s.inReset = false) :
    exec (.fieldFall dt f) s = .next (fieldFalls f.val (elapse dt s)) := by
  simp [exec, execFieldFall, unlessReset, hr]

/-- A fall starts no capture while the engine works, without an arming record and for a coil already captured (R30). -/
theorem fallReported_of_nothing_to_capture {f : Nat} {s : State}
    (h : s.engine.running.isSome = true ∨ (s.chan (freqChan f)).arming = none ∨
      ∃ a, (s.chan (freqChan f)).arming = some a ∧ (a.captured (freqCoil f)).isSome = true) :
    fallReported f s = s := by
  unfold fallReported
  rcases h with hrun | harm | ⟨a, harm, hcap⟩
  · obtain ⟨r, hrun⟩ := Option.isSome_iff_exists.1 hrun
    simp [hrun]
  · simp [harm]
  · obtain ⟨v, hcap⟩ := Option.isSome_iff_exists.1 hcap
    cases s.engine.running <;> simp [harm, hcap]

/-- A fall of an armed, uncaptured coil starts its border capture in SETTLE when the engine is IDLE (R17, R30). -/
theorem fallReported_of_armed {f : Nat} {s : State} {a : Arming} (hidle : s.engine.running = none)
    (harm : (s.chan (freqChan f)).arming = some a) (hcap : a.captured (freqCoil f) = none) :
    fallReported f s =
      startSequence .settle (captureSequence (freqChan f) (freqCoil f) a s.straps)
        (setArming (freqChan f) (some { a with capturing := true }) s) := by
  simp [fallReported, hidle, harm, hcap]

/-- The edge group lies at the high local loops on the high side of an axis, and on the low side of a mirrored one (R10). -/
theorem edgeStart_eq (st : Straps) (ax : Axis) (side : Side) :
    edgeStart st ax side = if (side = Side.high ↔ mirrored st ax = false) then axisLoops ax - 8 else 0 := by
  unfold edgeStart
  cases side <;> cases mirrored st ax <;> rfl

/-- The frequency index of an index's channel and coil is the index (R14). -/
theorem coilFreq_freqChan_freqCoil : ∀ f : Freq, coilFreq (freqChan f.val) (freqCoil f.val) = f.val := by decide

/-- A border capture listens to the edge group of the armed axis and side (R10, R23, R30). -/
theorem captureSequence_eq (c : Chan) (k : Coil) (a : Arming) (st : Straps) :
    captureSequence c k a st =
      { job := .capture c k, loops := [], level := 0
        windowX :=
          match a.axis with
          | .X => if (a.side = Side.high ↔ st.mirrorX = false) then 40 else 0
          | .Y => 0
        windowY :=
          match a.axis with
          | .X => 0
          | .Y => if (a.side = Side.high ↔ st.mirrorY = false) then 24 else 0
        disturbed := false, abandoned := false } := by
  unfold captureSequence
  simp only [edgeStart_eq]
  cases a.axis <;> rfl

/-- An undriven sequence that begins in SETTLE: sums and marks cleared, 3 periods, no index masked (R17, R24, R25). -/
theorem startSequence_settle (seq : Sequence) (s : State) :
    startSequence .settle seq s =
      { s with engine :=
          { running := some { phase := .settle, ends := s.now + 3 * period seq.job.freq, seq := seq }
            paths := Engine.atReset.paths } } := rfl

/-- Settles O13: the report of the fall, with a capture to make and without. -/
theorem fallStartsABorderCapture : Obligations.FallStartsABorderCapture := by
  intro dt f s hr
  rw [exec_fieldFall dt f hr]
  refine ⟨fun h => congrArg _ (fieldFalls_of_not_present h),
    fun h => ⟨fun hno => ?nothing, fun a hidle harm hcap => ?capture⟩⟩
  all_goals rw [fieldFalls_of_present (s := elapse dt s) h]
  case nothing =>
    rw [fallReported_of_nothing_to_capture (by simpa using hno)]; rfl
  case capture =>
    rw [fallReported_of_armed (by simpa using hidle) (by simpa using harm) hcap, captureSequence_eq,
      startSequence_settle]
    simp only [Job.freq, coilFreq_freqChan_freqCoil]
    cases freqChan f.val <;> rfl

end Sys2Proof.Machine
end

section
/-! PROOFS. The eight loops of a window in surface order, and the result of a border capture (R8, R10, R62, R67, R122, R123). -/

namespace Sys2Proof.Machine

/-! ### The eight loops of a window in surface order -/

/-- The path of a window that hears its n-th loop in ascending surface order (R8). -/
def surfacePath (st : Straps) (ax : Axis) (n : Nat) : Nat := if mirrored st ax then 7 - n else n

/-- In ascending surface order the loops of a window follow one another from its lowest (R7, R8). -/
theorem toSurface_surfacePath {st : Straps} {ax : Axis} {w n : Nat} (hw : w ≤ axisLoops ax - 8) (hn : n < 8) :
    toSurface st ax (w + surfacePath st ax n) = runLow st ax w + n := by
  have hlong : 8 ≤ axisLoops ax := by cases ax <;> decide
  unfold runLow toSurface surfacePath ownHi ownLo
  cases mirrored st ax <;> simp <;> omega

/-- An edge group begins at the tile's lowest loop or ends at its highest (R10). -/
theorem runLow_edgeStart (st : Straps) (ax : Axis) (side : Side) :
    runLow st ax (edgeStart st ax side) = if side = .high then ownHi st ax - 7 else ownLo st ax := by
  have hlong : 8 ≤ axisLoops ax := by cases ax <;> decide
  rw [edgeStart_eq]
  unfold runLow toSurface ownHi ownLo
  cases side <;> cases mirrored st ax <;> simp <;> omega

/-- The entries of a window, place by place in ascending surface order. -/
theorem ownEntries_eq_map_surfacePath (s : State) (ax : Axis) (f w : Nat) :
    ownEntries s ax f w = (List.range 8).map fun n => ownEntry s ax f w (surfacePath s.straps ax n) :=
  ownEntries_eq_map s ax f w

/-- The loop of an entry does not depend on its reading (R7). -/
theorem ownEntry_loop (s : State) (ax : Axis) (f w n : Nat) :
    (ownEntry s ax f w n).loop = toSurface s.straps ax (w + n) := by
  unfold ownEntry; split <;> rfl

/-- The readings of a window in ascending surface order, none for its dead loops (R55, R66). -/
theorem liveRun_ownEntries (s : State) (ax : Axis) (f w : Nat) :
    liveRun (ownEntries s ax f w) =
      (List.range 8).map fun n => readingOf s f ax w (surfacePath s.straps ax n) := by
  rw [ownEntries_eq_map_surfacePath, liveRun, List.map_map]
  refine List.map_congr_left fun n _ => ?_
  simp only [Function.comp_apply, ownEntry_eq_of_reading]
  cases readingOf s f ax w (surfacePath s.straps ax n) <;> rfl

/-! ### Border captures -/

/-- The numbers from a to below a + c among those below n. -/
theorem filter_range_between {a c n : Nat} (h : a + c ≤ n) :
    (List.range n).filter (fun m => a ≤ m && m < a + c) = (List.range c).map fun m => a + m := by
  have hsplit : List.range n = List.range' 0 a ++ (List.range' a c ++ List.range' (a + c) (n - (a + c))) := by
    rw [List.range'_append_1, List.range_eq_range']
    have := List.range'_append_1 (s := 0) (m := a) (n := c + (n - (a + c)))
    rw [Nat.zero_add] at this
    rw [this]; congr 1; omega
  have hbelow : (List.range' 0 a).filter (fun m => a ≤ m && m < a + c) = [] := by
    rw [List.filter_eq_nil_iff]; intro m hm; simp [List.mem_range'_1] at hm ⊢; omega
  have habove : (List.range' (a + c) (n - (a + c))).filter (fun m => a ≤ m && m < a + c) = [] := by
    rw [List.filter_eq_nil_iff]; intro m hm; simp [List.mem_range'_1] at hm ⊢; omega
  have hbetween : (List.range' a c).filter (fun m => a ≤ m && m < a + c) = List.range' a c := by
    rw [List.filter_eq_self]; intro m hm; simp [List.mem_range'_1] at hm ⊢; omega
  rw [hsplit, List.filter_append, List.filter_append, hbelow, habove, hbetween, List.nil_append, List.append_nil,
    List.range'_eq_map_range]

/-- The filled run of a window, place by place in ascending surface order: loop, amplitude and clipped mark (R67). -/
theorem filledRun_eq_map (s : State) (ax : Axis) (f w : Nat) :
    filledRun s ax f w = (List.range 8).map fun n =>
      { ownEntry s ax f w (surfacePath s.straps ax n) with
        amp := (filledPlace (liveRun (ownEntries s ax f w)) n).1
        clipped := (filledPlace (liveRun (ownEntries s ax f w)) n).2 } := by
  rw [filledRun, fillDead_eq_mapIdx]
  generalize liveRun (ownEntries s ax f w) = run
  rw [ownEntries_eq_map_surfacePath]
  apply List.ext_getElem <;> simp

/-- The wanted loops of an arming record, out of the filled run of its edge group (R10, R62). -/
theorem captureOf_eq_map {s : State} {c : Chan} {k : Coil} {a : Arming} {lowest : Nat}
    (hlow : runLow s.straps a.axis (edgeStart s.straps a.axis a.side) = lowest)
    (hfirst : lowest ≤ a.first) (hlast : a.first + a.count ≤ lowest + 8) :
    captureOf s c k a = (List.range a.count).map fun n =>
      filledPlace (liveRun (ownEntries s a.axis (coilFreq c k) (edgeStart s.straps a.axis a.side)))
        (a.first - lowest + n) := by
  have hrange : edgeStart s.straps a.axis a.side ≤ axisLoops a.axis - 8 := by
    rw [edgeStart_eq]; split <;> omega
  have hwanted : ∀ n ∈ List.range 8,
      (decide (a.first ≤ toSurface s.straps a.axis (edgeStart s.straps a.axis a.side + surfacePath s.straps a.axis n)) &&
        decide (toSurface s.straps a.axis (edgeStart s.straps a.axis a.side + surfacePath s.straps a.axis n) <
          a.first + a.count)) =
      (decide (a.first - lowest ≤ n) && decide (n < a.first - lowest + a.count)) := by
    intro n hn
    rw [toSurface_surfacePath hrange (List.mem_range.1 hn), hlow]
    congr 1 <;> rw [decide_eq_decide] <;> omega
  rw [captureOf, filledRun_eq_map, List.filter_map, List.map_map]
  simp only [Function.comp_def, ownEntry_loop]
  rw [List.filter_congr hwanted, filter_range_between (by omega), List.map_map]
  rfl

/-- What a capture stores does not depend on the running sequence (R122). -/
theorem goIdle_captureResult (c : Chan) (k : Coil) (seq : Sequence) (s : State) :
    goIdle (captureResult c k seq s) = captureResult c k seq (goIdle s) := by
  have hcapture : ∀ a, captureOf (goIdle s) c k a = captureOf s c k a := fun _ => rfl
  have hcomplete : ∀ a, goIdle (completeArming c a s) = completeArming c a (goIdle s) := by
    intro a; unfold completeArming
    split <;> cases c <;> rfl
  unfold captureResult
  rw [goIdle_chan]
  cases (s.chan c).arming with
  | none => rfl
  | some a =>
    simp only [hcapture]
    split
    · rfl
    · split
      · cases c <;> rfl
      · exact hcomplete _

/-- An undisturbed capture is stored for the record that started it (R122). -/
theorem captureResult_of_capturing {s : State} {c : Chan} {a : Arming} {seq : Sequence} (k : Coil)
    (harm : (s.chan c).arming = some a) (hcap : a.capturing = true) (hd : seq.disturbed = false) :
    captureResult c k seq s = completeArming c (a.store k (captureOf s c k a)) s := by
  simp [captureResult, harm, hcap, hd]

/-- A record that holds one coil alone stays (R122). -/
theorem completeArming_of_one {a : Arming} (h : a.tip = none ∨ a.collar = none) (c : Chan) (s : State) :
    completeArming c a s = s.setChan c { s.chan c with arming := some a } := by
  unfold completeArming
  rcases h with h | h <;> rw [h] <;> cases a.tip <;> rfl

/-- A record that holds both coils ends with its BORDER (R123). -/
theorem completeArming_of_both {a : Arming} {tip collar : Capture} (ht : a.tip = some tip) (hk : a.collar = some collar)
    (c : Chan) (s : State) :
    completeArming c a s =
      { s with link := s.link.push (.border (borderOf c a tip (some collar))) }.setChan c
        { s.chan c with arming := none } := by
  unfold completeArming
  rw [ht, hk]
  cases c <;> rfl

/-- LISTEN_END of an undisturbed border capture for the record that started it (R26, R122). -/
theorem exec_listenEnd_capture {s : State} {r : Running} {c : Chan} {k : Coil} {a : Arming} (periods : List Period)
    (fall : Option Freq) (hr : s.inReset = false) (hrun : s.engine.running = some r) (hp : r.phase = .listen)
    (h16 : s.engine.paths.length = 16) (hl : periods.length = s.settings.listenLength)
    (hv : ∀ v ∈ periods, v.length = 16) (hjob : r.seq.job = .capture c k) (hab : r.seq.abandoned = false)
    (hd : r.seq.disturbed = false) (harm : (s.chan c).arming = some a) (hcap : a.capturing = true) :
    exec (.listenEnd periods fall) s = .next (grant (fallFirst fall
      (completeArming c (a.store k (captureOf (s.heardOut r periods) c k a)) (s.heardOut r periods)))) := by
  have hundriven : r.seq.job.driven = false := by rw [hjob]; rfl
  obtain ⟨hexec, hheard⟩ := exec_listenEnd_undriven periods fall hr hrun hp hundriven h16 hl hv
  have hconclude : ∀ u, conclude r.seq u = (captureResult c k r.seq u, none) := by
    intro u; simp [conclude, hab, deliver, hjob]
  have harm' : ((s.heardOut r periods).chan c).arming = some a := by cases c <;> exact harm
  rw [hexec, hconclude]
  simp only [submit]
  rw [goIdle_captureResult, hheard, captureResult_of_capturing k harm' hcap hd]

/-- Settles O23: the capture out of the filled edge group, and what it makes of the arming record. -/
theorem captureResultIsStored : Obligations.CaptureResultIsStored := by
  intro periods fall s r c k a hr hrun hp h16 hl hv hjob hab hd harm hcap b got mirror start lowest run place frame
  have hchan : b.chan c = s.chan c := by cases c <;> rfl
  have hexec : ∀ {u}, completeArming c (a.store k got) b = u →
      exec (.listenEnd periods fall) s = .next (grant (fallFirst fall u)) := fun h =>
    h ▸ exec_listenEnd_capture periods fall hr hrun hp h16 hl hv hjob hab hd harm hcap
  rw [← hchan]
  refine ⟨fun hfirst hlast => ?stored, ?tipFirst, ?collarFirst, ?tipLast, ?collarLast⟩
  case stored =>
    have hmirror : mirrored b.straps a.axis = mirror := rfl
    have hstart : edgeStart b.straps a.axis a.side = start := by rw [edgeStart_eq, hmirror]
    have hlow : runLow b.straps a.axis (edgeStart b.straps a.axis a.side) = lowest := runLow_edgeStart _ _ _
    have hrun : liveRun (ownEntries b a.axis (coilFreq c k) (edgeStart b.straps a.axis a.side)) = run := by
      rw [liveRun_ownEntries, hstart]; rfl
    rw [← hrun]
    exact captureOf_eq_map hlow hfirst hlast
  case tipFirst => rintro rfl hno; exact hexec (completeArming_of_one (a := a.store .tip got) (.inr hno) c b)
  case collarFirst => rintro rfl hno; exact hexec (completeArming_of_one (a := a.store .collar got) (.inl hno) c b)
  case tipLast =>
    rintro other rfl hother; exact hexec (completeArming_of_both (a := a.store .tip got) rfl hother c b)
  case collarLast =>
    rintro other rfl hother; exact hexec (completeArming_of_both (a := a.store .collar got) hother rfl c b)

end Sys2Proof.Machine
end

section
/-! PROOFS. The profiles and the strongest path a tip or collar result forms (R65, R66, R69). -/

namespace Sys2Proof.Machine

/-! ### Own entries joined with border entries -/

/-- The entries of a window are those of its eight paths. -/
theorem mem_ownEntries {s : State} {ax : Axis} {f w : Nat} {e : Entry} :
    e ∈ ownEntries s ax f w ↔ ∃ n, n < 8 ∧ e = ownEntry s ax f w n := by
  have hall : ∀ n, n ∈ surfaceOrder s ax ↔ n < 8 := by
    intro n; unfold surfaceOrder; split <;> simp
  simp only [ownEntries, List.mem_map, hall, eq_comm]

/-- The entries of a window ascend in surface loops (R8). -/
theorem ascending_ownEntries {ax : Axis} {w : Nat} (s : State) (f : Nat) (hw : w ≤ axisLoops ax - 8) :
    Ascending (ownEntries s ax f w) := by
  rw [ownEntries_eq_map_surfacePath, Ascending, List.pairwise_map]
  refine List.pairwise_lt_range.imp_of_mem fun {a b} ha hb hab => ?_
  rw [ownEntry_loop, ownEntry_loop, toSurface_surfacePath hw (List.mem_range.1 ha),
    toSurface_surfacePath hw (List.mem_range.1 hb)]
  omega

/-- Own entries joined with border entries of other loops: all of both, ascending (R65, R66). -/
theorem mem_withOwn {own es : List Entry} (hown : Ascending own) (hes : Ascending es)
    (hborder : ∀ e ∈ es, e.source = .border) (hother : ∀ e ∈ es, ∀ d ∈ own, d.loop ≠ e.loop) :
    Ascending (withOwn own es) ∧ ∀ x, x ∈ withOwn own es ↔ x ∈ es ∨ x ∈ own := by
  have hall : es.filter (fun e => e.source == .border) = es := by
    rw [List.filter_eq_self]; intro e he; simp [hborder e he]
  rw [withOwn, hall]
  obtain ⟨hasc, hmem⟩ := mem_foldl_insertEntry hown (hes.imp fun h => Nat.ne_of_lt h) hother
  exact ⟨hasc, fun x => (hmem x).trans or_comm⟩

/-- The profiles of the coil a result is for: its own entries joined with the border entries held (R66). -/
theorem formProfiles_profile_same (s : State) (c : Chan) (k : Coil) (w : Axis → Nat) (r : CycleRecord) (ax : Axis) :
    (formProfiles s c k (w .X) (w .Y) r).profile k ax =
      withOwn (ownEntries s ax (coilFreq c k) (w ax)) (r.profile k ax) := by
  cases k <;> cases ax <;> rfl

/-- The other coil's profiles stay. -/
theorem formProfiles_profile_other (s : State) (c : Chan) {k j : Coil} (h : j ≠ k) (wx wy : Nat) (r : CycleRecord)
    (ax : Axis) : (formProfiles s c k wx wy r).profile j ax = r.profile j ax := by
  cases k <;> cases j <;> cases ax <;> first | rfl | exact absurd rfl h

/-- A floor is stale when it was never refreshed or more than 400 ms ago (R42). -/
theorem staleAt_iff (now : Nat) (fl : Floor) :
    staleAt now fl = true ↔ ∀ m, fl.refreshed = some m → m + msec 400 < now := by
  unfold staleAt
  cases fl.refreshed <;> simp

/-- A window reads a stale floor when the floor of one of its live loops is stale (R69). -/
theorem readsStale_iff (s : State) (ax : Axis) (f w : Nat) : readsStale s ax f w = true ↔
    ∃ n, n < 8 ∧ deadLoop s.settings (tileLoop ax (w + n)) = false ∧
      ∀ m, (floorAt s f (tileLoop ax (w + n))).refreshed = some m → m + msec 400 < s.now := by
  simp [readsStale, staleAt_iff]

/-! ### The strongest path -/

/-- Entry m is stronger than entry d, or as strong and no higher in loops (R66, R76). -/
def Outranks (m d : Entry) : Prop := d.amp < m.amp ∨ (d.amp = m.amp ∧ m.loop ≤ d.loop)

/-- Outranking is transitive. -/
theorem Outranks.trans {l m d : Entry} (h : Outranks l m) (h' : Outranks m d) : Outranks l d := by
  unfold Outranks at *; omega

/-- Two entries that outrank each other have one loop. -/
theorem Outranks.loop_eq {m d : Entry} (h : Outranks m d) (h' : Outranks d m) : m.loop = d.loop := by
  unfold Outranks at *; omega

/-- Of two entries in ascending order the larger outranks both. -/
theorem larger_outranks {a b : Entry} (h : a.loop < b.loop) :
    (larger a b = a ∨ larger a b = b) ∧ Outranks (larger a b) a ∧ Outranks (larger a b) b := by
  unfold larger Outranks
  split <;> refine ⟨by simp, ?_, ?_⟩ <;> omega

/-- The largest entry of an ascending list is in it and outranks all of it (R76). -/
theorem foldl_larger : ∀ (es : List Entry) (e : Entry), Ascending (e :: es) →
    es.foldl larger e ∈ e :: es ∧ ∀ d ∈ e :: es, Outranks (es.foldl larger e) d
  | [], e, _ => by simp [Outranks]
  | a :: es, e, h => by
    obtain ⟨he, hes⟩ := List.pairwise_cons.1 h
    obtain ⟨hor, houte, houta⟩ := larger_outranks (he a (List.mem_cons_self ..))
    have hasc : Ascending (larger e a :: es) := by
      rcases hor with h' | h' <;> rw [h']
      · exact h.sublist ((List.sublist_cons_self a es).cons_cons e)
      · exact hes
    obtain ⟨hmem, hbest⟩ := foldl_larger es (larger e a) hasc
    have hfirst := hbest _ (List.mem_cons_self ..)
    rw [List.foldl_cons]
    refine ⟨?_, fun d hd => ?_⟩
    · rcases List.mem_cons.1 hmem with hm | hm
      · rcases hor with h' | h' <;> rw [hm, h'] <;> simp
      · exact List.mem_cons_of_mem _ (List.mem_cons_of_mem _ hm)
    · rcases List.mem_cons.1 hd with rfl | hd
      · exact hfirst.trans houte
      rcases List.mem_cons.1 hd with rfl | hd
      · exact hfirst.trans houta
      · exact hbest d (List.mem_cons_of_mem _ hd)

/-- A local loop is recovered from its surface loop (R7). -/
theorem toLocal_toSurface (st : Straps) {ax : Axis} {i : Nat} (hi : i < axisLoops ax) :
    toLocal st ax (toSurface st ax i) = i := by
  unfold toLocal toSurface ownHi ownLo
  split <;> omega

/-- An entry is live exactly when its loop is not dead. -/
theorem ownEntry_live (s : State) (ax : Axis) (f w n : Nat) :
    (ownEntry s ax f w n).live = !deadLoop s.settings (tileLoop ax (w + n)) := by
  unfold ownEntry Entry.live
  cases deadLoop s.settings (tileLoop ax (w + n)) <;> rfl

/-- The live entries of a window. -/
theorem mem_live_ownEntries {s : State} {ax : Axis} {f w : Nat} {e : Entry} :
    e ∈ (ownEntries s ax f w).filter Entry.live ↔
      ∃ n, n < 8 ∧ deadLoop s.settings (tileLoop ax (w + n)) = false ∧ e = ownEntry s ax f w n := by
  rw [List.mem_filter, mem_ownEntries]
  constructor
  · rintro ⟨⟨n, hn, rfl⟩, hlive⟩
    exact ⟨n, hn, by simpa [ownEntry_live] using hlive, rfl⟩
  · rintro ⟨n, hn, hlive, rfl⟩
    exact ⟨⟨n, hn, rfl⟩, by simp [ownEntry_live, hlive]⟩

/-- Without a live X loop in the window there is no strongest path (R66). -/
theorem strongestOf_of_all_dead {s : State} {w : Nat} (f : Nat)
    (h : ∀ n, n < 8 → ¬ deadLoop s.settings (tileLoop .X (w + n)) = false) :
    strongestOf s f w = { loop := none, i := 0, q := 0 } := by
  have hnone : (ownEntries s .X f w).filter Entry.live = [] := by
    rw [List.eq_nil_iff_forall_not_mem]
    intro e he
    obtain ⟨n, hn, hlive, _⟩ := mem_live_ownEntries.1 he
    exact h n hn hlive
  simp [strongestOf, hnone]

/-- The strongest path is the live X path whose entry outranks those of all live X loops of the window (R66). -/
theorem strongestOf_of_outranks {s : State} {f w n : Nat} (hw : w ≤ 40) (hn : n < 8)
    (hlive : deadLoop s.settings (tileLoop .X (w + n)) = false)
    (hbest : ∀ m, m < 8 → deadLoop s.settings (tileLoop .X (w + m)) = false →
      Outranks (ownEntry s .X f w n) (ownEntry s .X f w m)) :
    strongestOf s f w =
      { loop := some (ownEntry s .X f w n).loop, i := (pathOf s .X n).i, q := (pathOf s .X n).q } := by
  have hin : ownEntry s .X f w n ∈ (ownEntries s .X f w).filter Entry.live := mem_live_ownEntries.2 ⟨n, hn, hlive, rfl⟩
  have hasc : Ascending ((ownEntries s .X f w).filter Entry.live) := (ascending_ownEntries s f hw).filter _
  have hmem : ∀ e ∈ (ownEntries s .X f w).filter Entry.live, Outranks (ownEntry s .X f w n) e := by
    intro e he
    obtain ⟨m, hm, hmlive, rfl⟩ := mem_live_ownEntries.1 he
    exact hbest m hm hmlive
  unfold strongestOf
  cases hlist : (ownEntries s .X f w).filter Entry.live with
  | nil => rw [hlist] at hin; cases hin
  | cons e es =>
    rw [hlist] at hin hasc hmem
    obtain ⟨hmax, houtranks⟩ := foldl_larger es e hasc
    have hloop : (es.foldl larger e).loop = (ownEntry s .X f w n).loop :=
      (houtranks _ hin).loop_eq (hmem _ hmax)
    have hlocal : toLocal s.straps .X (ownEntry s .X f w n).loop - w = n := by
      rw [ownEntry_loop, toLocal_toSurface s.straps (by simp only [axisLoops]; omega)]; omega
    simp only [hloop, hlocal]

/-! ### The profiles a result forms -/

/-- The profiles and the stale mark of a result's record are those of its coil's own entries (R66, R69). -/
theorem formed_profile_stale (s : State) (c : Chan) (k : Coil) (wx wy : Nat) (r : CycleRecord) :
    let t := match k with
      | .tip => formTip s c wx wy r
      | .collar => formCollar s c wx wy r
    (∀ j ax, t.profile j ax = (formProfiles s c k wx wy r).profile j ax) ∧
      t.stale = (r.stale || readsStale s .X (coilFreq c k) wx || readsStale s .Y (coilFreq c k) wy) := by
  cases k <;> exact ⟨fun j ax => by cases j <;> cases ax <;> rfl, rfl⟩

/-- Settles O48: own entries per path, their merge with the border entries, and the live path that outranks all. -/
theorem resultsFormOwnEntries : Obligations.ResultsFormOwnEntries := by
  intro s c k wx wy r hwx hwy t f w own live
  have hw : ∀ ax, w ax ≤ axisLoops ax - 8 := fun ax => by cases ax; exacts [hwx, hwy]
  have hown : ∀ ax n, ownEntry s ax f (w ax) n = own ax n := fun ax n => ownEntry_eq_of_reading s ax f (w ax) n
  have hloop : ∀ ax n, (own ax n).loop = loopAt s.straps ax (w ax + n) := fun ax n => by
    rw [← hown, ownEntry_loop, toSurface_eq_loopAt]
  obtain ⟨hprofile, hstale⟩ : (∀ j ax, t.profile j ax = (formProfiles s c k (w .X) (w .Y) r).profile j ax) ∧
      t.stale = (r.stale || readsStale s .X f (w .X) || readsStale s .Y f (w .Y)) := formed_profile_stale s c k wx wy r
  refine ⟨?frame, fun j ax hj => ?other, fun ax hasc hborder => ?entries, ?built, ?stale, ?collar, ?tip⟩
  case frame => cases k <;> rfl
  case other => rw [hprofile, formProfiles_profile_other s c hj]
  case entries =>
    rw [hprofile, formProfiles_profile_same]
    obtain ⟨hasc', hmem⟩ := mem_withOwn (ascending_ownEntries s f (hw ax)) hasc (fun e he => (hborder e he).1) (by
      intro e he d hd
      obtain ⟨n, hn, rfl⟩ := mem_ownEntries.1 hd
      rw [hown, hloop]
      exact ((hborder e he).2 n hn).symm)
    refine ⟨hasc', fun e => ?_⟩
    simp only [← hown, ← mem_ownEntries]
    exact hmem e
  case built => cases k <;> simp [t, formTip, formCollar, formProfiles, CycleRecord.setProfile]
  case stale =>
    have haxis : ∀ P : Axis → Prop, (∃ ax, P ax) ↔ P .X ∨ P .Y := fun P =>
      ⟨fun ⟨ax, h⟩ => by cases ax; exacts [.inl h, .inr h], fun h => h.elim (⟨_, ·⟩) (⟨_, ·⟩)⟩
    rw [hstale, haxis]
    simp only [Bool.or_eq_true, readsStale_iff, or_assoc]
    rfl
  case collar => rintro rfl; rfl
  case tip =>
    rintro rfl
    refine ⟨strongestOf s f wx, rfl, fun hdead => strongestOf_of_all_dead f hdead, fun n p hn hlive hp hbest => ?_⟩
    have hpath : pathOf s .X n = p := by simp [pathOf, pathIndex, hp]
    rw [strongestOf_of_outranks hwx hn hlive fun m hm hm' => ?_, hpath]
    · rw [← hown]
    · exact hown .X n ▸ hown .X m ▸ hbest m hm hm'

end Sys2Proof.Machine
end

section
/-! PROOFS. Kinds and fields of received frames, and the link's checks (R143 to R148, R155, R156). -/

namespace Sys2Proof.Machine

/-! ### Kinds and lengths -/

/-- Octet 0 names a kind by its value (R155). -/
theorem kindOf_eq_some_iff (b : Byte) (k : Kind) : kindOf b = some k ↔ b.toNat = kindValue k := by
  unfold kindOf
  split_ifs <;> cases k <;> simp_all [kindValue]

/-- Octets are of a kind when octet 0 is its value and they have its length (R155). -/
theorem frameKind_eq_some_iff (o : List Byte) (k : Kind) :
    frameKind o = some k ↔ octetAt o 0 = kindValue k ∧ o.length = kindLength k := by
  have hkind : ∀ j, kindOf (o.getD 0 0) = some j ↔ octetAt o 0 = kindValue j := kindOf_eq_some_iff _
  rw [← hkind]
  unfold frameKind
  cases kindOf (o.getD 0 0) with
  | none => simp
  | some j =>
    by_cases hl : o.length = kindLength j
    · simp only [hl, if_true, Option.some.injEq]
      exact ⟨fun h => ⟨h, h ▸ rfl⟩, And.left⟩
    · simp only [hl, if_false, reduceCtorEq, Option.some.injEq, false_iff]
      rintro ⟨rfl, h⟩
      exact hl h

/-! ### Fields that a frame is refused for -/

/-- An octet is less than 256. -/
theorem octetAt_lt (o : List Byte) (k : Nat) : octetAt o k < 256 := BitVec.isLt _

theorem readSighting_eq_none (o : List Byte) : readSighting o = none ↔ 2 ≤ octetAt o 3 := by
  rw [readSighting, Option.map_eq_none_iff, readChan_eq_none]

theorem readLost_eq_none (o : List Byte) : readLost o = none ↔ 2 ≤ octetAt o 3 := by
  rw [readLost, Option.map_eq_none_iff, readChan_eq_none]

theorem readNotice_eq_none (o : List Byte) : readNotice o = none ↔
    2 ≤ octetAt o 3 ∨ octetAt o 9 / 64 = 3 ∨ octetAt o 9 / 4 % 4 = 3 := by
  have h9 := octetAt_lt o 9
  rw [← readChan_eq_none, ← readSide_eq_none (octetAt o 9 / 64) (by omega),
    ← readSide_eq_none (octetAt o 9 / 4 % 4) (by omega), readNotice]
  cases readChan (octetAt o 3) <;> cases readSide (octetAt o 9 / 64) <;>
    cases readSide (octetAt o 9 / 4 % 4) <;> simp

theorem readBorder_eq_none (o : List Byte) : readBorder o = none ↔
    2 ≤ octetAt o 3 ∨ 32 ≤ octetAt o 4 ∨ octetAt o 7 / 16 % 4 = 0 := by
  rw [← readChan_eq_none, ← readTile_eq_none, readBorder]
  cases readChan (octetAt o 3) <;> cases readTile (octetAt o 4) <;> simp

theorem readReport_eq_none (o : List Byte) : readReport o = none ↔
    2 ≤ octetAt o 3 / 16 ∨ 3 < octetAt o 3 % 16 := by
  rw [← readChan_eq_none, ← readLevel_eq_none, readReport]
  cases readChan (octetAt o 3 / 16) <;> cases readLevel (octetAt o 3 % 16) <;> simp

theorem readYield_eq_none (o : List Byte) : readYield o = none ↔
    2 ≤ octetAt o 3 ∨ 32 ≤ octetAt o 4 ∨ 3 < octetAt o 13 % 16 := by
  rw [← readChan_eq_none, ← readTile_eq_none, ← readLevel_eq_none, readYield]
  cases readChan (octetAt o 3) <;> cases readTile (octetAt o 4) <;> cases readLevel (octetAt o 13 % 16) <;> simp

theorem readTake_eq_none (o : List Byte) : readTake o = none ↔ 2 ≤ octetAt o 3 ∨ 32 ≤ octetAt o 4 := by
  rw [← readChan_eq_none, ← readTile_eq_none, readTake]
  cases readChan (octetAt o 3) <;> cases readTile (octetAt o 4) <;> simp

/-- A RESTART is always well formed; any other copy needs the origin of a tile and fields R156 admits. -/
theorem readCopy_eq_none_iff (k : Kind) (o : List Byte) : readCopy k o = none ↔
    k ≠ .restart ∧ (30 ≤ originOf o ∨ 6 ≤ originOf o % 8 ∨ readFrame k o = none) := by
  have horigin : tileOrigin (originOf o) = true ↔ ¬ (30 ≤ originOf o ∨ 6 ≤ originOf o % 8) := by
    simp [tileOrigin]
  rw [← or_assoc]
  unfold readCopy
  by_cases hk : k = .restart
  · simp [hk, readFrame]
  · by_cases hout : 30 ≤ originOf o ∨ 6 ≤ originOf o % 8 <;> simp only [horigin, hout] <;> simp [hk]

/-- The octet part in which a copy of a kind names its channel (R157, R159, R160). -/
def channelPart (k : Kind) (o : List Byte) : Nat := if k = .report then octetAt o 3 / 16 else octetAt o 3

/-- A copy other than a RESTART names the channel that its channel part gives. -/
theorem readFrame_channel {k : Kind} {o : List Byte} {f : Frame} (hk : k ≠ .restart) (h : readFrame k o = some f) :
    ∃ c, f.channel = some c ∧ channelPart k o = chanIndex c := by
  cases k with
  | restart => exact absurd rfl hk
  | sighting =>
    obtain ⟨c, hc, rfl⟩ := Option.map_eq_some_iff.1 h
    exact ⟨c, rfl, readChan_eq_some hc⟩
  | lost =>
    obtain ⟨c, hc, rfl⟩ := Option.map_eq_some_iff.1 h
    exact ⟨c, rfl, readChan_eq_some hc⟩
  | notice =>
    simp only [readFrame, readNotice] at h
    split at h
    case h_1 c _ _ hc _ _ => cases h; exact ⟨c, rfl, readChan_eq_some hc⟩
    case h_2 => cases h
  | border =>
    simp only [readFrame, readBorder] at h
    split at h
    case h_1 c _ hc _ => split at h <;> cases h; exact ⟨c, rfl, readChan_eq_some hc⟩
    case h_2 => cases h
  | report =>
    simp only [readFrame, readReport] at h
    split at h
    case h_1 c _ hc _ => cases h; exact ⟨c, rfl, readChan_eq_some hc⟩
    case h_2 => cases h
  | yield =>
    simp only [readFrame, readYield] at h
    split at h
    case h_1 c _ _ hc _ _ => cases h; exact ⟨c, rfl, readChan_eq_some hc⟩
    case h_2 => cases h
  | take =>
    simp only [readFrame, readTake] at h
    split at h
    case h_1 c _ hc _ => cases h; exact ⟨c, rfl, readChan_eq_some hc⟩
    case h_2 => cases h

/-! ### The link's checks -/

/-- The CRC check compares the last two octets with the CRC of the others (R143). -/
theorem crcGood_iff (o : List Byte) :
    crcGood o = true ↔ o.drop (o.length - 2) = bytes2 (crcOf (o.take (o.length - 2))) := by
  simp [crcGood]

/-- Eight bits of the CRC are its one-bit step eight times over (R143). -/
theorem crcShift8_eq_foldl (c : Nat) : crcShift8 c = (List.range 8).foldl (fun c _ => crcShift c) c := by
  have height : List.range 8 = [0, 1, 2, 3, 4, 5, 6, 7] := rfl
  simp only [height, List.foldl_cons, List.foldl_nil, crcShift8]

/-- One octet more carries the CRC on by its eight bits (R143). -/
theorem crcOf_append_singleton (p : List Byte) (v : Byte) :
    crcOf (p ++ [v]) = (List.range 8).foldl (fun c _ => crcShift c) (crcOf p ^^^ (v.toNat * 256)) := by
  rw [← crcShift8_eq_foldl]
  simp only [crcOf, List.foldl_append, List.foldl_cons, List.foldl_nil, crcOctet]

/-- A frame with a bad CRC is dropped (R143). -/
theorem receiveFrame_of_bad_crc {o : List Byte} (h : crcGood o = false) (s : State) : receiveFrame o s = s := by
  simp [receiveFrame, h]

/-- A frame of the tile's own origin leaves the ring (R144). -/
theorem receiveFrame_of_own {o : List Byte} {s : State} (hc : crcGood o = true)
    (ho : originOf o = ownIndex s.straps) : receiveFrame o s = ownReturns o s := by
  simp [receiveFrame, hc, ho]

/-- Another station's frame with its hop count used up, or without room, is dropped (R145, R148). -/
theorem receiveFrame_of_no_room {o : List Byte} {s : State} (ho : originOf o ≠ ownIndex s.straps)
    (h : 31 ≤ hopOf o ∨ 2 ≤ s.link.buffer.length) : receiveFrame o s = s := by
  rcases h with h | h <;> simp [receiveFrame, ho, h]

/-- Another station's frame joins the insertion buffer and its copy goes to the tracker (R146, R148). -/
theorem receiveFrame_of_room {o : List Byte} {s : State} (hc : crcGood o = true) (ho : originOf o ≠ ownIndex s.straps)
    (hh : hopOf o < 31) (hb : s.link.buffer.length < 2) :
    receiveFrame o s = handCopy o { s with link := { s.link with buffer := s.link.buffer ++ [o] } } := by
  simp [receiveFrame, hc, ho, Nat.not_le.2 hh, Nat.not_le.2 hb]

/-- Only a NOTICE and a SIGHTING that return are read (R105, R114, R144). -/
theorem onReturn_of_other {k : Kind} (hs : k ≠ .sighting) (hn : k ≠ .notice) (o : List Byte) (s : State) :
    onReturn k o s = (s, none) := by
  cases k with
  | sighting => exact absurd rfl hs
  | notice => exact absurd rfl hn
  | _ => rfl

/-- The return of a frame that is neither a NOTICE nor a SIGHTING changes nothing (R144). -/
theorem ownReturns_of_other {o : List Byte} (hs : octetAt o 0 ≠ 17) (hn : octetAt o 0 ≠ 18) (s : State) :
    ownReturns o s = s := by
  unfold ownReturns
  cases hk : kindOf (o.getD 0 0) with
  | none => rfl
  | some k =>
    have hvalue : octetAt o 0 = kindValue k := (kindOf_eq_some_iff _ k).1 hk
    have hsk : k ≠ .sighting := by rintro rfl; exact hs hvalue
    have hnk : k ≠ .notice := by rintro rfl; exact hn hvalue
    simp only [onReturn_of_other hsk hnk]
    rfl

/-! ### Copies the tracker passes over -/

/-- A copy is passed over when its fields, if it has any, call for nothing (R146, R156). -/
theorem handCopy_of_passed_over {o : List Byte} {s : State}
    (h : ∀ k f, frameKind o = some k → readCopy k o = some f → onCopy (originOf o) f s = (s, none)) :
    handCopy o s = s := by
  unfold handCopy
  split
  · rfl
  · cases hk : frameKind o with
    | none => rfl
    | some k =>
      cases hf : readCopy k o with
      | none => simp only [hf]
      | some f => simp only [hf, h k f hk hf]; rfl

/-- A pen or BORDER frame calls for nothing before the tile tracks, nor for a channel that is not enabled (R14, R95). -/
theorem onCopy_of_not_tracking_or_disabled {f : Frame} {c : Chan} {s : State} (hf : f.channel = some c)
    (h : s.tracking = false ∨ s.enabled c = false) (origin : Nat) : onCopy origin f s = (s, none) := by
  have hoff : (s.tracking && s.enabled c) = false := by rcases h with h | h <;> simp [h]
  cases f with
  | restart => cases hf
  | border b =>
    cases hf
    have hborder : s.enabled b.ch = false → onBorder origin b s = (s, none) := fun hd => by
      simp [onBorder, acceptsBorder, hd]
    rcases h with h | h
    · simp [onCopy, h]
    · simp [onCopy, hborder h]
  | _ => cases hf; simp [onCopy, Frame.channel, hoff]

/-- A well-formed copy other than a RESTART calls for nothing in START, nor for channel B when it is not enabled. -/
theorem onCopy_of_readCopy {k : Kind} {o : List Byte} {f : Frame} {s : State} (hk : k ≠ .restart)
    (hf : readCopy k o = some f) (h : s.mode = .start ∨ (channelPart k o = 1 ∧ s.settings.enableB = false)) :
    onCopy (originOf o) f s = (s, none) := by
  have hread : readFrame k o = some f := by
    unfold readCopy at hf
    split at hf
    · exact hf
    · cases hf
  obtain ⟨c, hc, hpart⟩ := readFrame_channel hk hread
  refine onCopy_of_not_tracking_or_disabled hc ?_ _
  rcases h with h | ⟨h1, hB⟩
  · left; simp [State.tracking, h]
  · right
    cases c with
    | A => rw [h1] at hpart; cases hpart
    | B => exact hB

/-- Settles O35: each check of `receiveFrame` in its order, then the copies that the tracker passes over. -/
theorem framesPassTheLinksChecks : Obligations.FramesPassTheLinksChecks := by
  intro o s k kinds known channel malformed
  have hkinds : ∀ kind, (k, o.length, kind) ∈ kinds ↔ frameKind o = some kind := by
    intro kind
    rw [frameKind_eq_some_iff]
    cases kind <;> simp [kinds, kindValue, kindLength, k]
  have hrestart : ∀ kind, frameKind o = some kind → (k = 31 ↔ kind = .restart) := by
    intro kind hkind
    have hvalue : k = kindValue kind := ((frameKind_eq_some_iff o kind).1 hkind).1
    rw [hvalue]; cases kind <;> simp [kindValue]
  have hchannel : ∀ kind, frameKind o = some kind → channel = channelPart kind o := by
    intro kind hkind
    have hvalue : k = kindValue kind := ((frameKind_eq_some_iff o kind).1 hkind).1
    simp only [channel, hvalue]; cases kind <;> rfl
  have hmalformed : ∀ kind, frameKind o = some kind → (readCopy kind o = none ↔ malformed) := by
    intro kind hkind
    have hvalue : k = kindValue kind := ((frameKind_eq_some_iff o kind).1 hkind).1
    rw [readCopy_eq_none_iff]
    simp only [malformed, channel, hvalue]
    cases kind <;> simp [kindValue, readFrame, readSighting_eq_none, readNotice_eq_none, readBorder_eq_none,
      readReport_eq_none, readYield_eq_none, readTake_eq_none, readLost_eq_none]
  refine ⟨crcGood_iff o, fun h => receiveFrame_of_bad_crc h s, fun hc ho hs hn => ?own,
    fun ho h => receiveFrame_of_no_room ho h, fun hc ho hh hb hpassed => ?passed,
    ⟨rfl, fun p v => crcOf_append_singleton p v⟩, fun kind => (hkinds kind).symm, hmalformed⟩
  case own => rw [receiveFrame_of_own hc ho, ownReturns_of_other hs hn]
  case passed =>
    rw [receiveFrame_of_room hc ho hh hb]
    rcases hpassed with hout | hpassed
    · exact if_pos hout
    · refine handCopy_of_passed_over fun kind f hkind hf => ?_
      rcases hpassed with hunknown | hbad | ⟨h31, hoff⟩
      · exact absurd ⟨kind, (hkinds kind).2 hkind⟩ hunknown
      · rw [(hmalformed kind hkind).2 hbad] at hf; cases hf
      · rw [hchannel kind hkind] at hoff
        exact onCopy_of_readCopy (fun h => h31 ((hrestart kind hkind).2 h)) hf hoff

end Sys2Proof.Machine
end

section
/-! PROOFS. The end of a sequence, seen from the engine that has entered IDLE (R26, R33, R35). -/

namespace Sys2Proof.Machine

/-! ### What a block does with a result does not depend on the sequence that has ended -/

/-- A reaction once the engine has entered IDLE. -/
def Reaction.idled (r : Reaction) : Reaction := (goIdle r.1, r.2)

@[simp] theorem goIdle_setChan (c : Chan) (ch : Channel) (s : State) :
    goIdle (s.setChan c ch) = (goIdle s).setChan c ch := by cases c <;> rfl

@[simp] theorem goIdle_modChan (c : Chan) (g : Channel → Channel) (s : State) :
    goIdle (s.modChan c g) = (goIdle s).modChan c g := by cases c <;> rfl

/-- A mark on the sequence in progress finds none in IDLE. -/
@[simp] theorem abandonRunning_goIdle (w : Job → Bool) (s : State) : abandonRunning w (goIdle s) = goIdle s := rfl

theorem goIdle_wake (s : State) : goIdle (wake s) = wake (goIdle s) := by
  unfold wake
  rw [goIdle_mode]
  split <;> rfl

theorem idled_beginPass (s : State) : (beginPass s).idled = beginPass (goIdle s) := by
  have hch : passChannel (goIdle s) = passChannel s := rfl
  unfold beginPass
  rw [hch, goIdle_seek]
  cases s.seek.pass <;> cases passChannel s <;> rfl

theorem goIdle_abandonPass (c : Chan) (s : State) : goIdle (abandonPass c s) = abandonPass c (goIdle s) := by
  have hrun : ∀ w : Job → Bool, ∀ u, goIdle (endPass (abandonRunning w u)) = endPass (goIdle u) := fun w u => by
    rw [← goIdle_abandonRunning w u]; simp [goIdle, endPass]
  unfold abandonPass
  rw [goIdle_seek]
  cases s.seek.pass with
  | none => rfl
  | some p => by_cases hp : p.ch = c <;> simp only [hp, if_true, if_false, hrun]; rfl

/-- Abandoning the channel's cycle does not ask what the engine runs: there is no cycle, or no tracking sequence of the channel runs (R120). -/
def Untied (c : Chan) (s : State) : Prop := (s.chan c).current = none ∨ isRunning (Job.tracks c) s = false

theorem goIdle_abandonCycle {c : Chan} {s : State} (h : Untied c s) :
    goIdle (abandonCycle c s) = abandonCycle c (goIdle s) := by
  have hany : (s.engine.running.any fun r => r.seq.job.tracks c) = isRunning (Job.tracks c) s := by
    unfold isRunning; cases s.engine.running <;> rfl
  rw [abandonCycle_eq, abandonCycle_eq, goIdle_setChan, goIdle_chan]
  rcases h with h | h
  · rw [h]; rfl
  · rw [hany, h]; cases (s.chan c).current <;> rfl

theorem goIdle_leaveState {c : Chan} {s : State} (h : Untied c s) :
    goIdle (leaveState c s) = leaveState c (goIdle s) := by
  unfold leaveState
  rw [goIdle_chan]
  cases (s.chan c).state <;>
    simp only [dropRecords, goIdle_modChan, goIdle_abandonCycle h, goIdle_abandonPass]

theorem idled_enterSeek {c : Chan} {s : State} (h : Untied c s) : (enterSeek c s).idled = enterSeek c (goIdle s) := by
  have hin : goIdle (timeDormant (setState c .seek (leaveState c s))) =
      timeDormant (setState c .seek (leaveState c (goIdle s))) := by
    rw [← goIdle_leaveState h]; cases c <;> rfl
  unfold enterSeek
  simp only [← hin, goIdle_seek, ← idled_beginPass]
  split <;> simp_all [Reaction.idled]

theorem goIdle_moveTo {c : Chan} {st : ChanState} {s : State} (h : Untied c s) :
    goIdle (moveTo c st s) = moveTo c st (goIdle s) := by
  unfold moveTo
  rw [← goIdle_leaveState h]
  cases c <;> rfl

theorem goIdle_find {c : Chan} {s : State} (strength x y : Nat) (h : Untied c s) :
    goIdle (find c strength x y s) = find c strength x y (goIdle s) := by
  have hin : Untied c (queueFrame (.sighting c strength x y) (endPass (wake s))) := by
    unfold Untied isRunning at h ⊢; simpa using h
  unfold find
  rw [goIdle_moveTo hin, ← goIdle_wake]
  rfl

theorem idled_nextGroup (c : Chan) (pos : Nat) (s : State) : (nextGroup c pos s).idled = nextGroup c pos (goIdle s) := by
  unfold nextGroup; split <;> rfl

theorem idled_seekResult {c : Chan} {s : State} (seq : Sequence) (h : Untied c s) :
    (seekResult c seq s).idled = seekResult c seq (goIdle s) := by
  have hrun : ∀ ax f w, filledRun (goIdle s) ax f w = filledRun s ax f w := fun _ _ _ => rfl
  unfold seekResult
  rw [goIdle_seek]
  cases s.seek.pass with
  | none => rfl
  | some p =>
    simp only
    split
    · rfl
    split
    · rfl
    cases p.stage with
    | x pos =>
      simp only [seekXResult, hrun, goIdle_settings, ← idled_nextGroup]
      split <;> rfl
    | y pos group peak strength posY =>
      simp only [seekYResult, hrun, goIdle_settings, ← idled_nextGroup, ← goIdle_find _ _ _ h]
      split
      · rfl
      split <;> rfl

theorem idled_yieldTest (c : Chan) (ct : Contents) (n k : Nat) (s : State) :
    Reaction.idled (yieldTest c ct n k s, none) = (yieldTest c ct n k (goIdle s), none) :=
  congrArg (·, none) (goIdle_yieldTest c ct n k s)

theorem idled_finishCycle (c : Chan) (ct : Contents) (disturbed lost : Bool) (s : State) :
    (finishCycle c ct disturbed lost s).idled = finishCycle c ct disturbed lost (goIdle s) := by
  unfold finishCycle
  rw [goIdle_chan]
  cases hcs : (s.chan c).cycles with
  | none => rfl
  | some cs =>
    cases hcy : cs.current with
    | none => simp only [hcy]; rfl
    | some cy =>
      simp only [hcy]
      cases lost
      · simp only [Bool.false_eq_true, if_false, idled_yieldTest, goIdle_modChan]; rfl
      · simp only [if_true, loseChannel]
        rw [idled_enterSeek (.inl (by simp [Channel.current]))]
        cases c <;> rfl

theorem idled_endBorderWait (c : Chan) (s : State) : (endBorderWait c s).idled = endBorderWait c (goIdle s) := by
  unfold endBorderWait
  rw [goIdle_chan]
  split
  · simp only [idled_finishCycle, goIdle_modChan, goIdle_settings]
  · rfl

theorem idled_endHeld (c : Chan) (s : State) : (endHeld c s).idled = endHeld c (goIdle s) := by
  unfold endHeld
  rw [goIdle_chan]
  cases (s.chan c).pen with
  | none => rfl
  | some pen => exact idled_finishCycle ..

theorem idled_beginBorderWait (c : Chan) (s : State) : (beginBorderWait c s).idled = beginBorderWait c (goIdle s) := by
  unfold beginBorderWait
  simp only [modCycle, ← goIdle_modChan, goIdle_chan, goIdle_now]
  split
  · split
    · exact idled_endBorderWait ..
    · rfl
  · rfl

theorem idled_tipResult (c : Chan) (seq : Sequence) (s : State) : (tipResult c seq s).idled = tipResult c seq (goIdle s) := by
  have hform : formTip (goIdle s) = formTip s := rfl
  unfold tipResult
  rw [goIdle_chan]
  split
  · split
    · rfl
    split
    · simp only [hform, modRecord, modCycle, ← goIdle_modChan]; rfl
    split
    · simp only [modCycle, ← goIdle_modChan]; rfl
    · exact idled_endHeld ..
  · rfl

theorem idled_collarResult (c : Chan) (seq : Sequence) (s : State) :
    (collarResult c seq s).idled = collarResult c seq (goIdle s) := by
  have hform : formCollar (goIdle s) = formCollar s := rfl
  unfold collarResult
  rw [goIdle_chan]
  split
  · split
    · rfl
    split
    · exact idled_beginBorderWait ..
    · rw [idled_beginBorderWait]; simp only [hform, modRecord, goIdle_modChan]
  · rfl

theorem idled_becomeActive (s : State) : (becomeActive s).idled = becomeActive (goIdle s) := by
  unfold becomeActive
  rw [idled_beginPass]
  simp only [goIdle_settings, setState, setChan_settings, State.modChan]
  split <;> rfl

theorem idled_baselineResult (slot : Nat) (seq : Sequence) (s : State) :
    (baselineResult slot seq s).idled = baselineResult slot seq (goIdle s) := by
  unfold baselineResult
  rw [goIdle_baseline]
  split
  · rfl
  split
  · have hstep : (writeSweep slot (goIdle s)).baseline = (writeSweep slot s).baseline := rfl
    unfold sweepResult
    simp only [hstep]
    split
    · exact idled_becomeActive ..
    · rfl
  · rfl

theorem goIdle_abandonedEnds (c : Chan) (s : State) : goIdle (abandonedEnds c s) = abandonedEnds c (goIdle s) := by
  have hstart : ∀ u, goIdle (startCycle c u) = startCycle c (goIdle u) := fun u => by
    unfold startCycle
    rw [goIdle_chan]
    split
    · cases c <;> rfl
    · rfl
  unfold abandonedEnds
  simp only [← goIdle_modChan, goIdle_chan]
  split
  · split
    · exact hstart _
    · rfl
  · rfl

theorem goIdle_discard (seq : Sequence) (s : State) : goIdle (discard seq s) = discard seq (goIdle s) := by
  unfold discard
  cases seq.job with
  | tip c => exact goIdle_abandonedEnds ..
  | collar c => exact goIdle_abandonedEnds ..
  | _ => rfl

/-- What the end of a sequence leaves is the same with the engine IDLE before its result is delivered. -/
theorem idled_conclude {seq : Sequence} {s : State} {r : Running} (hrun : s.engine.running = some r)
    (hjob : r.seq.job = seq.job) : (conclude seq s).idled = conclude seq (goIdle s) := by
  have huntied : ∀ c, seq.job.tracks c = false → Untied c s := fun c h => .inr (by simp [isRunning, hrun, hjob, h])
  unfold conclude
  split
  · exact congrArg (·, none) (goIdle_discard seq s)
  · unfold deliver
    cases h : seq.job with
    | tip c => exact idled_tipResult ..
    | collar c => exact idled_collarResult ..
    | seekX c => exact idled_seekResult seq (huntied c (by rw [h]; rfl))
    | seekY c => exact idled_seekResult seq (huntied c (by rw [h]; rfl))
    | capture c k => exact congrArg (·, none) (goIdle_captureResult c k seq s)
    | baseline slot => exact idled_baselineResult ..

/-- What follows a block's answer at the end of a sequence: a fall, the grant, and then the request (R26, R33, R35). -/
def settleEnd (fall : Option Freq) (r : Reaction) : State := submit r.2 (grant (fallFirst fall r.1))

/-- The end of a sequence is the answer of the block it was for, the engine IDLE already, and what follows it. -/
theorem endSequence_eq {seq : Sequence} {s : State} {r : Running} (fall : Option Freq) (hrun : s.engine.running = some r)
    (hjob : r.seq.job = seq.job) : endSequence seq fall s = settleEnd fall (conclude seq (goIdle s)) := by
  rw [← idled_conclude hrun hjob]; rfl

end Sys2Proof.Machine
end

section
/-! PROOFS. A law kept by the meanings that commands are made of is kept by every step. -/

namespace Sys2Proof.Machine

/-! ### What a listen can leave in the paths -/

/-- What the receive paths can hold once a listen is over: some whole periods, at most L, and the marks of one cut short (R24, R25, R28). -/
def Heard (s : State) (ps : List Path) : Prop :=
  ∃ (periods : List Period) (cut : List (List Sample)),
    ps = markPaths (listenSums s.engine.paths (periods.take s.settings.listenLength)) cut

/-- No sample of a cut period leaves the paths as they are. -/
theorem markPaths_nil (ps : List Path) : markPaths ps [] = ps := by cases ps <;> rfl

/-- A listen that nothing has sampled leaves the paths as they were. -/
theorem heard_self (s : State) : Heard s s.engine.paths := ⟨[], [], by simp [markPaths_nil, listenSums]⟩

/-- The periods of a whole listen. -/
theorem heard_sampleFor (periods : List Period) (s : State) : Heard s (sampleFor periods s).engine.paths :=
  ⟨periods, [], (markPaths_nil _).symm⟩

/-- The periods and the cut of a listen cut short. -/
theorem heard_sampleUntilCut (l : Sampled) (s : State) : Heard s (sampleUntilCut l s).engine.paths := by
  simp only [sampleUntilCut]
  split
  · exact ⟨l.periods, l.cut, rfl⟩
  · exact heard_sampleFor l.periods s

/-- The state with the receive paths as a listen leaves them. -/
def State.hearing (ps : List Path) (s : State) : State := { s with engine := { s.engine with paths := ps } }

/-- A listen changes the paths alone. -/
theorem sampleUntilCut_eq_hearing (l : Sampled) (s : State) :
    sampleUntilCut l s = s.hearing (sampleUntilCut l s).engine.paths := by
  simp only [sampleUntilCut]
  split <;> rfl

/-! ### The package -/

/-- A law of the state, and of the request that a block's answer brings, kept by each meaning a command is made of. -/
structure LawKept (A : Reaction → Prop) : Prop where
  pending : ∀ s l, A (s, none) → A ({ s with pending := l }, none)
  clock : ∀ s n, A (s, none) → A ({ s with now := n }, none)
  reset : ∀ s ends, A (s, none) → A (enterReset ends s, none)
  leave : ∀ s st, s.inReset = true → A (s, none) → A (leaveReset st s, none)
  outside : ∀ s o, s.loader.readEnds ≠ none → A (s, none) → A ({ loadImage o s with mode := .outside }, none)
  sweep : ∀ s o, s.inReset = false → s.loader.readEnds ≠ none → A (s, none) → A (beginSweep (loadImage o s), none)
  settle : ∀ s r foreign, s.engine.running = some r → r.phase = .drive → A (s, none) →
    A (enterPhase .settle r.seq (unmask r.seq.job.freq foreign s), none)
  listen : ∀ s r, s.engine.running = some r → r.phase = .settle → A (s, none) → A (enterPhase .listen r.seq s, none)
  damp : ∀ s r d ps, s.engine.running = some r → r.phase = .settle ∨ r.phase = .listen → r.seq.job.driven = true →
    Heard s ps → A (s, none) → A (enterDamp { r.seq with disturbed := d } (s.hearing ps), none)
  heard : ∀ s r d ps, s.engine.running = some r → r.phase = .settle ∨ r.phase = .listen → r.seq.job.driven = false →
    Heard s ps → A (s, none) → A (conclude { r.seq with disturbed := d } (goIdle (s.hearing ps)))
  damped : ∀ s r foreign, s.engine.running = some r → r.phase = .damp → A (s, none) →
    A (conclude r.seq (goIdle (unmask r.seq.job.freq foreign s)))
  rise : ∀ s f, detectorAt f s = .quiet → A (s, none) → A (setDetector f .present s, none)
  fall : ∀ s o (f : Freq), A (s, o) → A (fieldFalls f.val s, o)
  grant : ∀ s o, A (s, o) → A (grant s, o)
  enqueue : ∀ s q, A (s, some q) → A ({ s with queue := enqueue q s.queue }, none)
  refresh : ∀ s t, s.baseline.timer = some t → A (s, none) →
    A ({ s with baseline := { s.baseline with
      timer := some (t + msec 8), owed := if s.baseline.owed < 8 then s.baseline.owed + 1 else s.baseline.owed } }, none)
  dormant : ∀ s t, s.dormant = some t → A (s, none) → A (goDormant t s, none)
  seek : ∀ s t, s.seek.timer = some t → A (s, none) → A (beginPass { s with seek := { s.seek with timer := none } })
  backoff : ∀ s t, s.seek.backoff = some t → A (s, none) →
    A (beginPass { s with seek := { s.seek with backoff := none } })
  claim : ∀ s c cl, (s.chan c).state = .claim cl → A (s, none) → A (decideClaim c cl s, none)
  seekAgain : ∀ s c, (∃ t, (s.chan c).state = .defer t) ∨ (∃ h t, (s.chan c).state = .standby h t) → A (s, none) →
    A (enterSeek c s)
  report : ∀ s c, A (s, none) → A (reportDue c s, none)
  barrier : ∀ s c cy fault, (s.chan c).current = some cy → cy.phase = .noticeWait ∨ cy.barrier ≠ none → A (s, none) →
    A (reachBarrier c fault s)
  border : ∀ s c cy, (s.chan c).current = some cy → cy.border ≠ none → A (s, none) → A (endBorderWait c s)
  yield : ∀ s c t, (s.chan c).state = .yield t → A (s, none) → A (setSpacing c 8 (setState c .hold s), none)
  age : ∀ s c a, (s.chan c).arming = some a → A (s, none) → A (ageOut c a s, none)
  link : ∀ s l, l.buffer.length ≤ s.link.buffer.length → l.own.length ≤ s.link.own.length → l.drop ≤ s.link.drop →
    A (s, none) → A ({ s with link := l }, none)
  buffer : ∀ s o, s.link.buffer.length < 2 → A (s, none) →
    A ({ s with link := { s.link with buffer := s.link.buffer ++ [o] } }, none)
  copy : ∀ s k o f, s.mode ≠ .outside → readCopy k o = some f → A (s, none) → A (onCopy (originOf o) f s)

/-- A command that nothing but a reset stops keeps what its meaning keeps. -/
theorem unlessReset_keeps {P : State → Prop} {f : State → State} {s : State} (hf : P s → P (f s)) (hs : P s) :
    P (unlessReset f s) := by
  unfold unlessReset
  split
  · exact hs
  · exact hf hs

namespace LawKept

variable {A : Reaction → Prop} (h : LawKept A)
include h

/-! ### Requests and the end of a sequence -/

theorem submit {s : State} {o : Option Request} (hs : A (s, o)) : A (submit o s, none) := by
  cases o with
  | none => exact hs
  | some q => exact h.grant _ _ (h.enqueue s q hs)

theorem settleReaction {r : Reaction} (hr : A r) : A (settleReaction r, none) := h.submit hr

theorem settleEnd {r : Reaction} (fall : Option Freq) (hr : A r) : A (settleEnd fall r, none) := by
  refine h.submit (h.grant _ _ ?_)
  cases fall with
  | none => exact hr
  | some f => exact h.fall _ _ f hr

theorem elapse {s : State} (dt : Nat) (hs : A (s, none)) : A (elapse dt s, none) := h.clock _ _ hs

theorem reach {s : State} (n : Nat) (hs : A (s, none)) : A (reach n s, none) := h.clock _ _ hs

theorem expires {timer : Option Nat} {f : Nat → State → State} {s : State}
    (hf : ∀ t, timer = some t → A (Machine.reach t s, none) → A (f t (Machine.reach t s), none)) (hs : A (s, none)) :
    A (expires timer f s, none) := by
  cases timer with
  | none => exact hs
  | some t => exact hf t rfl (h.reach t hs)

/-! ### The engine's commands -/

theorem phaseEnds {ph : Phase} {f : Sequence → State → State} {s : State}
    (hf : ∀ (u : State) r, u.engine.running = some r → r.phase = ph → A (u, none) → A (f r.seq u, none)) (hs : A (s, none)) :
    A (phaseEnds ph f s, none) := by
  unfold Machine.phaseEnds
  split
  · rename_i r hrun
    split
    · rename_i hp
      exact hf _ r hrun hp (h.reach _ hs)
    · exact hs
  · exact hs

theorem listenOver {s : State} {r : Running} {ps : List Path} (d : Bool) (fall : Option Freq)
    (hrun : s.engine.running = some r) (hp : r.phase = .settle ∨ r.phase = .listen) (hps : Heard s ps)
    (hs : A (s, none)) : A (listenOver { r.seq with disturbed := d } fall (s.hearing ps), none) := by
  unfold Machine.listenOver
  split
  · rename_i hd
    exact h.damp s r d ps hrun hp hd hps hs
  · rename_i hd
    have hrun' : (s.hearing ps).engine.running = some r := hrun
    rw [endSequence_eq (seq := { r.seq with disturbed := d }) fall hrun' rfl]
    exact h.settleEnd fall (h.heard s r d ps hrun hp (by simpa using hd) hps hs)

theorem riseReported {s : State} (f : Nat) (l : Sampled) (fall : Option Freq) (hs : A (s, none)) :
    A (riseReported f l fall s, none) := by
  unfold Machine.riseReported
  split
  · rename_i r hrun
    split
    · split
      · rename_i hp
        exact h.listenOver true fall hrun (.inl hp) (heard_self s) hs
      · rename_i hp
        rw [sampleUntilCut_eq_hearing]
        exact h.listenOver true fall hrun (.inr hp) (heard_sampleUntilCut l s) hs
      · exact hs
      · exact hs
    · exact hs
  · exact hs

theorem driveOver {s : State} {r : Running} (foreign : Bool) (hrun : s.engine.running = some r) (hp : r.phase = .drive)
    (hs : A (s, none)) : A (driveOver foreign r.seq s, none) := by
  have hsettled := h.settle s r foreign hrun hp hs
  unfold Machine.driveOver
  cases foreign
  · exact hsettled
  · exact h.riseReported _ ⟨[], []⟩ none hsettled

theorem dampOver {s : State} {r : Running} (foreign : Bool) (fall : Option Freq) (hrun : s.engine.running = some r)
    (hp : r.phase = .damp) (hs : A (s, none)) : A (dampOver foreign fall r.seq s, none) := by
  unfold Machine.dampOver
  have hrun' : (unmask r.seq.job.freq foreign s).engine.running = some r := hrun
  rw [endSequence_eq fall hrun' rfl]
  exact h.settleEnd fall (h.damped s r foreign hrun hp hs)

theorem fieldRises {s : State} (f : Nat) (l : Sampled) (fall : Option Freq) (hs : A (s, none)) :
    A (fieldRises f l fall s, none) := by
  unfold Machine.fieldRises
  split
  · rename_i hq
    exact h.riseReported _ _ _ (h.rise s f hq hs)
  · exact hs

theorem imageLoads {s : State} (o : List Byte) (hr : s.inReset = false) (hs : A (s, none)) : A (imageLoads o s, none) := by
  unfold Machine.imageLoads
  split
  · exact hs
  · rename_i t hread
    have hread' : (Machine.reach t s).loader.readEnds ≠ none := by simp [hread]
    unfold compareExtent
    split
    · exact h.outside _ _ hread' (h.reach t hs)
    · exact h.grant _ _ (h.sweep _ _ hr hread' (h.reach t hs))

/-! ### The timers -/

theorem refreshDue {s : State} {t : Nat} (ht : s.baseline.timer = some t) (hs : A (s, none)) :
    A (refreshDue t s, none) :=
  h.grant _ _ (h.refresh s t ht hs)

theorem reportDue {s : State} (c : Chan) (hs : A (s, none)) : A (reportDue c s, none) := h.report s c hs

theorem claimDue {s : State} (c : Chan) (hs : A (s, none)) : A (claimDue c s, none) := by
  unfold Machine.claimDue
  split
  · rename_i cl hst
    exact h.claim _ c cl (by simpa using hst) (h.reach _ hs)
  · exact hs

theorem deferDue {s : State} (c : Chan) (hs : A (s, none)) : A (deferDue c s, none) := by
  unfold Machine.deferDue
  split
  · rename_i t hst
    exact h.settleReaction (h.seekAgain _ c (.inl ⟨t, by simpa using hst⟩) (h.reach _ hs))
  · exact hs

theorem viewDue {s : State} (c : Chan) (hs : A (s, none)) : A (viewDue c s, none) := by
  unfold Machine.viewDue
  split
  · rename_i holder t hst
    exact h.settleReaction (h.seekAgain _ c (.inr ⟨holder, t, by simpa using hst⟩) (h.reach _ hs))
  · exact hs

theorem barrierDue {s : State} (c : Chan) (hs : A (s, none)) : A (barrierDue c s, none) := by
  unfold Machine.barrierDue
  split
  · rename_i cy hcy
    refine h.expires (fun t ht hs => ?_) hs
    exact h.settleReaction (h.barrier _ c cy true (by simpa using hcy) (.inr (by simp [ht])) hs)
  · exact hs

theorem borderDue {s : State} (c : Chan) (hs : A (s, none)) : A (borderDue c s, none) := by
  unfold Machine.borderDue
  split
  · rename_i cy hcy
    refine h.expires (fun t ht hs => ?_) hs
    exact h.settleReaction (h.border _ c cy (by simpa using hcy) (by simp [ht]) hs)
  · exact hs

theorem yieldDue {s : State} (c : Chan) (hs : A (s, none)) : A (yieldDue c s, none) := by
  unfold Machine.yieldDue
  split
  · rename_i t hst
    exact h.yield _ c t (by simpa using hst) (h.reach _ hs)
  · exact hs

theorem ageDue {s : State} (c : Chan) (hs : A (s, none)) : A (ageDue c s, none) := by
  unfold Machine.ageDue
  split
  · rename_i a ha
    exact h.age _ c a (by simpa using ha) (h.reach _ hs)
  · exact hs

/-! ### The link -/

theorem ownReturns {s : State} (o : List Byte) (hs : A (s, none)) : A (ownReturns o s, none) := by
  unfold Machine.ownReturns
  split
  · exact hs
  · refine h.settleReaction ?_
    unfold onReturn
    split
    · unfold noticeReturns
      split
      · rename_i cs hcs
        split
        · rename_i cy hcy
          split
          · rename_i hwait
            exact h.barrier s _ cy false (by simp [Channel.current, hcs, hcy]) (.inl hwait.1) hs
          · exact hs
        · exact hs
      · exact hs
    · unfold sightingReturns
      split
      · rename_i cl hst
        exact h.claim s _ cl hst hs
      · exact hs
    · exact hs

theorem handCopy {s : State} (o : List Byte) (hs : A (s, none)) : A (handCopy o s, none) := by
  unfold Machine.handCopy
  split
  · exact hs
  · rename_i hmode
    split
    · exact hs
    · split
      · rename_i f hf
        exact h.settleReaction (h.copy s _ o f hmode hf hs)
      · exact hs

theorem receiveFrame {s : State} (o : List Byte) (hs : A (s, none)) : A (receiveFrame o s, none) := by
  unfold Machine.receiveFrame
  split
  · exact hs
  split
  · exact h.ownReturns o hs
  split
  · exact hs
  split
  · exact hs
  · rename_i hroom
    exact h.handCopy o (h.buffer s o (by omega) hs)

theorem setReception {s : State} (r : Option (List Byte)) (hs : A (s, none)) : A (setReception r s, none) :=
  h.link s _ le_rfl le_rfl le_rfl hs

theorem symbolUp {s : State} (sym : Symbol) (hs : A (s, none)) : A (symbolUp sym s, none) := by
  unfold Machine.symbolUp
  split
  · exact h.setReception _ hs
  · split <;> exact h.setReception _ hs
  · split
    · exact h.receiveFrame _ (h.setReception _ hs)
    · exact h.setReception _ hs
  · exact h.setReception _ hs
  · exact h.setReception _ hs
  · exact hs

theorem symbolDown {s : State} (sym : Symbol) (hs : A (s, none)) : A (symbolDown sym s, none) := by
  unfold Machine.symbolDown
  split
  · exact h.link s _ le_rfl le_rfl le_rfl hs
  split <;> exact h.link s _ le_rfl le_rfl le_rfl hs

theorem receiveSymbol {s : State} (sym : Symbol) (hs : A (s, none)) : A (receiveSymbol s sym, none) := by
  have hheard : A (if sym = .invalid then s else heardSymbol s, none) := by
    split
    · exact hs
    · exact h.link s _ le_rfl le_rfl le_rfl hs
  have htaken : ∀ u : State, A (u, none) → A (if u.link.up then Machine.symbolUp sym u else Machine.symbolDown sym u, none) := by
    intro u hu
    split
    · exact h.symbolUp sym hu
    · exact h.symbolDown sym hu
  exact htaken _ hheard

theorem receiveSymbols (l : List Symbol) : ∀ {s : State}, A (s, none) → A (receiveSymbols l s, none) := by
  induction l with
  | nil => exact id
  | cons sym l ih => exact fun hs => ih (h.receiveSymbol sym hs)

theorem linkFalls {s : State} (hs : A (s, none)) : A (linkFalls s, none) := by
  unfold Machine.linkFalls
  split
  · exact hs
  · exact h.link _ _ le_rfl le_rfl le_rfl (h.reach _ hs)

theorem putOnLine {s : State} (own : Bool) (octets : List Byte) (hs : A (s, none)) : A (putOnLine own octets s, none) :=
  h.link { s with now := (Machine.putOnLine own octets s).now } (Machine.putOnLine own octets s).link
    le_rfl le_rfl le_rfl (h.clock s _ hs)

theorem sendForward {s : State} (hs : A (s, none)) : A (sendForward s, none) := by
  unfold Machine.sendForward
  split
  · exact hs
  · rename_i o rest hb
    exact h.putOnLine _ _ (h.link _ _ (by simp [hb]) le_rfl le_rfl hs)

theorem sendOwn {s : State} (hs : A (s, none)) : A (sendOwn s, none) := by
  unfold Machine.sendOwn
  split
  · rename_i f hb hf
    refine h.putOnLine _ _ (h.link _ _ le_rfl ?_ ?_ hs)
    · exact List.length_eraseP_le
    · simp only [dropAfter]; split <;> omega
  · exact hs

theorem kindArrives {s : State} (k : Kind) (dt : Nat) (body : List Byte) (hs : A (s, none)) :
    A (kindArrives k dt body s, none) := unlessReset_keeps (P := fun u => A (u, none)) (h.receiveSymbols _) (h.elapse dt hs)

theorem ownArrives {s : State} (kind : Byte) (dt : Nat) (rest : List Byte) (hs : A (s, none)) :
    A (ownArrives kind dt rest s, none) := unlessReset_keeps (P := fun u => A (u, none)) (h.receiveSymbols _) (h.elapse dt hs)

/-! ### Every command -/

theorem exec {s t : State} (c : Instr) (hs : A (s, none)) (ht : exec c s = .next t) : A (t, none) := by
  cases c <;> cases ht
  case powerOnReset dt => exact h.reset _ _ (h.elapse dt hs)
  case pinReset dt => exact h.reset _ _ (h.elapse dt hs)
  case resetEnd dt st =>
    split
    · rename_i hr
      exact h.leave _ st hr (h.reach _ (h.elapse dt hs))
    · exact h.elapse dt hs
  case imageLoaded o =>
    unfold unlessReset
    split
    · exact hs
    · rename_i hr
      exact h.imageLoads o (by simpa using hr) hs
  case driveEnd foreign => exact unlessReset_keeps (P := fun u => A (u, none)) (h.phaseEnds fun _ _ hrun hp => h.driveOver foreign hrun hp) hs
  case settleEnd => exact unlessReset_keeps (P := fun u => A (u, none)) (h.phaseEnds fun u r hrun hp => h.listen u r hrun hp) hs
  case listenEnd periods fall =>
    exact unlessReset_keeps (P := fun u => A (u, none)) (h.phaseEnds fun u r hrun hp =>
      h.listenOver r.seq.disturbed fall hrun (.inr hp) (heard_sampleFor periods u)) hs
  case dampEnd foreign fall => exact unlessReset_keeps (P := fun u => A (u, none)) (h.phaseEnds fun _ _ hrun hp => h.dampOver foreign fall hrun hp) hs
  case fieldRise dt f l fall => exact unlessReset_keeps (P := fun u => A (u, none)) (h.fieldRises f.val l fall) (h.elapse dt hs)
  case fieldFall dt f => exact unlessReset_keeps (P := fun u => A (u, none)) (h.fall _ _ f) (h.elapse dt hs)
  case refreshTimerExpiry => exact unlessReset_keeps (P := fun u => A (u, none)) (h.expires fun t ht => h.refreshDue ht) hs
  case dormantTimerExpiry => exact unlessReset_keeps (P := fun u => A (u, none)) (h.expires fun t ht => h.dormant _ t ht) hs
  case seekTimerExpiry => exact unlessReset_keeps (P := fun u => A (u, none)) (h.expires fun t ht hs => h.settleReaction (h.seek _ t ht hs)) hs
  case backoffTimerExpiry => exact unlessReset_keeps (P := fun u => A (u, none)) (h.expires fun t ht hs => h.settleReaction (h.backoff _ t ht hs)) hs
  case claimTimerExpiry c => exact unlessReset_keeps (P := fun u => A (u, none)) (h.claimDue c) hs
  case deferTimerExpiry c => exact unlessReset_keeps (P := fun u => A (u, none)) (h.deferDue c) hs
  case reportTimerExpiry c => exact unlessReset_keeps (P := fun u => A (u, none)) (h.reportDue c) hs
  case barrierTimerExpiry c => exact unlessReset_keeps (P := fun u => A (u, none)) (h.barrierDue c) hs
  case borderTimerExpiry c => exact unlessReset_keeps (P := fun u => A (u, none)) (h.borderDue c) hs
  case yieldTimerExpiry c => exact unlessReset_keeps (P := fun u => A (u, none)) (h.yieldDue c) hs
  case ageTimerExpiry c => exact unlessReset_keeps (P := fun u => A (u, none)) (h.ageDue c) hs
  case viewTimerExpiry c => exact unlessReset_keeps (P := fun u => A (u, none)) (h.viewDue c) hs
  case linkInDown dt => exact unlessReset_keeps (P := fun u => A (u, none)) h.linkFalls (h.elapse dt hs)
  case linkInUp dt g => exact unlessReset_keeps (P := fun u => A (u, none)) (h.receiveSymbols _) (h.elapse dt hs)
  case frameReceptionDiscard dt g => exact unlessReset_keeps (P := fun u => A (u, none)) (h.receiveSymbols _) (h.elapse dt hs)
  case unknownKindFrame dt o => exact unlessReset_keeps (P := fun u => A (u, none)) (h.receiveSymbols _) (h.elapse dt hs)
  case forwardFrameSend dt => exact unlessReset_keeps (P := fun u => A (u, none)) h.sendForward (h.elapse dt hs)
  case ownFrameSend dt => exact unlessReset_keeps (P := fun u => A (u, none)) h.sendOwn (h.elapse dt hs)
  case noticeReturn dt rest => exact h.ownArrives _ dt rest hs
  case sightingReturn dt rest => exact h.ownArrives _ dt rest hs
  case ownFrameRemoved dt kind rest => exact h.ownArrives kind dt rest hs
  all_goals exact h.kindArrives _ _ _ hs

/-- A law that every meaning keeps is kept by every step. -/
theorem step {s t : State} (hs : A (s, none)) (ht : step s = .next t) : A (t, none) := by
  unfold Machine.step at ht
  split at ht
  · cases ht; exact hs
  · exact h.exec _ (h.pending s _ hs) ht

end LawKept

end Sys2Proof.Machine
end

section
/-! PROOFS. What everything but the engine leaves alone: detectors, paths, settings and floors; and that it keeps the ranges. -/

namespace Sys2Proof.Machine

/-! ### The relation -/

/-- At most an abandoned mark has been set on the sequence in progress (R26). -/
def Marked (a b : Option Running) : Prop :=
  b = a ∨ ∃ r, a = some r ∧ b = some { r with seq := { r.seq with abandoned := true } }

/-- What the tracker and the link leave alone in the engine: detectors, paths, settings, floors, the sequence in progress but for its abandoned mark; and the ranges are kept. -/
structure Kept (s t : State) : Prop where
  detectors : t.detectors = s.detectors
  paths : t.engine.paths = s.engine.paths
  settings : t.settings = s.settings
  table : t.baseline.table = s.baseline.table
  running : Marked s.engine.running t.engine.running
  ranges : RangesLawful s → RangesLawful t

/-- What lies around the tracker's work: reset, loader and double sweep stay, and the tile mode but for waking (R94). -/
structure Around (s t : State) : Prop where
  inReset : t.inReset = s.inReset
  loader : t.loader = s.loader
  sweeping : t.baseline.sweeping = s.baseline.sweeping
  mode : t.mode = s.mode ∨ (s.mode = .dormant ∧ t.mode = .active)

/-- What the tracker does to the rest of the tile. -/
structure Steady (s t : State) : Prop extends Kept s t, Around s t

theorem Marked.trans {a b d : Option Running} (h : Marked a b) (h' : Marked b d) : Marked a d := by
  rcases h with rfl | ⟨r, rfl, rfl⟩
  · exact h'
  · rcases h' with rfl | ⟨_, hr, rfl⟩
    · exact .inr ⟨r, rfl, rfl⟩
    · cases hr; exact .inr ⟨r, rfl, rfl⟩

theorem Kept.trans {s t u : State} (h : Kept s t) (h' : Kept t u) : Kept s u :=
  ⟨h'.detectors.trans h.detectors, h'.paths.trans h.paths, h'.settings.trans h.settings, h'.table.trans h.table,
    h.running.trans h'.running, fun hs => h'.ranges (h.ranges hs)⟩

theorem Around.trans {s t u : State} (h : Around s t) (h' : Around t u) : Around s u := by
  refine ⟨h'.inReset.trans h.inReset, h'.loader.trans h.loader, h'.sweeping.trans h.sweeping, ?_⟩
  rcases h.mode with hm | ⟨hs, ht⟩ <;> rcases h'.mode with hm' | ⟨ht', hu⟩
  · exact .inl (hm'.trans hm)
  · exact .inr ⟨hm ▸ ht', hu⟩
  · exact .inr ⟨hs, hm'.trans ht⟩
  · rw [ht] at ht'; cases ht'

namespace Steady

theorem refl (s : State) : Steady s s := ⟨⟨rfl, rfl, rfl, rfl, .inl rfl, id⟩, rfl, rfl, rfl, .inl rfl⟩

theorem trans {s t u : State} (h : Steady s t) (h' : Steady t u) : Steady s u :=
  ⟨h.toKept.trans h'.toKept, h.toAround.trans h'.toAround⟩

end Steady

/-! ### The parts of the ranges -/

theorem RangesLawful.chan {s : State} (h : RangesLawful s) (c : Chan) : ChannelBounded (s.chan c) := by
  obtain ⟨_, _, _, hA, hB, _⟩ := h
  cases c
  · exact hA
  · exact hB

theorem RangesLawful.setChan {s : State} {c : Chan} {ch : Channel} (h : RangesLawful s) (hch : ChannelBounded ch) :
    RangesLawful (s.setChan c ch) := by
  obtain ⟨hq, hl, hb, hA, hB, hf⟩ := h
  cases c
  · exact ⟨hq, hl, hb, hch, hB, hf⟩
  · exact ⟨hq, hl, hb, hA, hch, hf⟩

/-- A shorter queue holds no new pair of requests of one requester (R32). -/
theorem RangesLawful.queue {s : State} {q : List Request} (h : RangesLawful s) (hq : q.Sublist s.queue) :
    RangesLawful { s with queue := q } := by
  obtain ⟨hpair, hrest⟩ := h
  exact ⟨List.Pairwise.sublist hq hpair, hrest⟩

theorem RangesLawful.link {s : State} {l : Link} (h : RangesLawful s) (hb : l.buffer.length ≤ 2) (ho : l.own.length ≤ 8)
    (hd : l.drop ≤ 255) : RangesLawful { s with link := l } := by
  obtain ⟨hq, _, hrest⟩ := h
  exact ⟨hq, ⟨hb, ho, hd⟩, hrest⟩

theorem RangesLawful.lfsr {s : State} {k : Seek} (h : RangesLawful s) (hk : 1 ≤ k.lfsr ∧ k.lfsr ≤ 65535) :
    RangesLawful { s with seek := k } := by
  obtain ⟨hq, hl, hb, hA, hB, _⟩ := h
  exact ⟨hq, hl, hb, hA, hB, hk⟩

theorem RangesLawful.baseline {s : State} {b : Baseline} (h : RangesLawful s) (ho : b.owed ≤ 8) (hc : b.counter < 24)
    (hp : b.pass = 1 ∨ b.pass = 2) (ht : b.table.length = 320) : RangesLawful { s with baseline := b } := by
  obtain ⟨hq, hl, _, hrest⟩ := h
  exact ⟨hq, hl, ⟨ho, hc, hp, ht⟩, hrest⟩

/-! ### Single updates -/

theorem setChan_steady {s : State} {c : Chan} {ch : Channel} (h : ChannelBounded (s.chan c) → ChannelBounded ch) :
    Steady s (s.setChan c ch) :=
  ⟨⟨by simp, by simp, by simp, by simp, .inl (by simp), fun hs => hs.setChan (h (hs.chan c))⟩,
    by simp, by simp, by simp, .inl (by simp)⟩

theorem modChan_steady {s : State} {c : Chan} {g : Channel → Channel}
    (h : ChannelBounded (s.chan c) → ChannelBounded (g (s.chan c))) : Steady s (s.modChan c g) := setChan_steady h

theorem queue_steady {s : State} {q : List Request} (hq : q.Sublist s.queue) : Steady s { s with queue := q } :=
  ⟨⟨rfl, rfl, rfl, rfl, .inl rfl, fun hs => hs.queue hq⟩, rfl, rfl, rfl, .inl rfl⟩

theorem withdraw_steady (w : Request → Bool) (s : State) : Steady s (withdraw w s) := queue_steady List.filter_sublist

theorem dormant_steady (d : Option Nat) (s : State) : Steady s { s with dormant := d } :=
  ⟨⟨rfl, rfl, rfl, rfl, .inl rfl, id⟩, rfl, rfl, rfl, .inl rfl⟩

theorem mode_kept (m : Mode) (s : State) : Kept s { s with mode := m } := ⟨rfl, rfl, rfl, rfl, .inl rfl, id⟩

theorem link_steady {s : State} {l : Link} (h : LinkBounded s → l.buffer.length ≤ 2 ∧ l.own.length ≤ 8 ∧ l.drop ≤ 255) :
    Steady s { s with link := l } := by
  refine ⟨⟨rfl, rfl, rfl, rfl, .inl rfl, fun hs => ?_⟩, rfl, rfl, rfl, .inl rfl⟩
  obtain ⟨hb, ho, hd⟩ := h hs.2.1
  exact hs.link hb ho hd

/-- The baseline unit's records but for the table. -/
theorem baseline_kept {s : State} {b : Baseline} (ht : b.table = s.baseline.table)
    (h : BaselineBounded s → b.owed ≤ 8 ∧ b.counter < 24 ∧ (b.pass = 1 ∨ b.pass = 2)) : Kept s { s with baseline := b } := by
  refine ⟨rfl, rfl, rfl, ht, .inl rfl, fun hs => ?_⟩
  obtain ⟨ho, hc, hp⟩ := h hs.2.2.1
  exact hs.baseline ho hc hp (by rw [ht]; exact hs.2.2.1.2.2.2)

theorem clock_steady (n : Nat) (s : State) : Steady s { s with now := n } := ⟨⟨rfl, rfl, rfl, rfl, .inl rfl, id⟩, rfl, rfl, rfl, .inl rfl⟩

/-- The seek scheduler's records but for the LFSR. -/
theorem seek_steady {s : State} {k : Seek} (hk : k.lfsr = s.seek.lfsr) : Steady s { s with seek := k } :=
  ⟨⟨rfl, rfl, rfl, rfl, .inl rfl, fun hs => hs.lfsr (by rw [hk]; exact hs.2.2.2.2.2)⟩, rfl, rfl, rfl, .inl rfl⟩

theorem timeDormant_steady (s : State) : Steady s (timeDormant s) := dormant_steady _ s

theorem endPass_steady (s : State) : Steady s (endPass s) := seek_steady rfl

theorem abandonRunning_steady (w : Job → Bool) (s : State) : Steady s (abandonRunning w s) := by
  refine ⟨⟨by simp, ?_, by simp, by simp, ?_, fun hs => ?_⟩, by simp, by simp, by simp, .inl (by simp)⟩
  · rw [abandonRunning_eq]
  · unfold abandonRunning markRunning
    split
    · rename_i r hr
      split
      · exact .inr ⟨r, hr, rfl⟩
      · exact .inl rfl
    · exact .inl rfl
  · rw [abandonRunning_eq]; exact hs

/-- The own queue and the drop count stay in range when a frame joins (R111, R150, R152). -/
theorem queueFrame_steady (f : Frame) (s : State) : Steady s (queueFrame f s) := by
  refine link_steady fun ⟨hbuf, hown, hdrop⟩ => ?_
  have hpush : (s.link.push f).buffer = s.link.buffer ∧ (s.link.push f).drop ≤ 255 := by
    unfold Link.push; split
    · exact ⟨rfl, hdrop⟩
    · exact ⟨rfl, Nat.min_le_left ..⟩
  exact ⟨by rw [hpush.1]; exact hbuf, push_own_length f s.link hown, hpush.2⟩

/-- The LFSR never reaches 0 (R101). -/
theorem lfsrStep_bounded {v : Nat} (h : 1 ≤ v ∧ v ≤ 65535) : 1 ≤ lfsrStep v ∧ lfsrStep v ≤ 65535 := by
  unfold lfsrStep lfsrFeedback
  omega

theorem backOff_steady (s : State) : Steady s (backOff s) :=
  ⟨⟨rfl, rfl, rfl, rfl, .inl rfl, fun hs => hs.lfsr (lfsrStep_bounded hs.2.2.2.2.2)⟩, rfl, rfl, rfl, .inl rfl⟩

theorem setState_steady (c : Chan) (st : ChanState) (s : State) : Steady s (setState c st s) := modChan_steady id

theorem setArming_steady (c : Chan) (a : Option Arming) (s : State) : Steady s (setArming c a s) := modChan_steady id

theorem modRecord_steady (c : Chan) (f : CycleRecord → CycleRecord) (s : State) : Steady s (modRecord c f s) := modChan_steady id

theorem enterYield_steady (c : Chan) (s : State) : Steady s (enterYield c s) := modChan_steady id

theorem dropRecords_steady (c : Chan) (s : State) : Steady s (dropRecords c s) :=
  modChan_steady fun ⟨hlevel, _, _⟩ => ⟨hlevel, by simp, by simp⟩

theorem modCycle_steady (c : Chan) (f : Cycle → Cycle) (s : State) : Steady s (modCycle c f s) := by
  refine modChan_steady fun h => ?_
  cases hcs : (s.chan c).cycles with
  | none => exact h
  | some cs =>
    obtain ⟨hlevel, hcycles, hpen⟩ := h
    refine ⟨hlevel, fun cs' hcs' => ?_, hpen⟩
    cases hcs'; exact hcycles cs hcs

theorem setSpacing_steady {c : Chan} {n : Nat} {s : State} (hn : ChannelBounded (s.chan c) → n ≤ 8) :
    Steady s (setSpacing c n s) := by
  refine modChan_steady fun h => ?_
  have hspacing := hn h
  cases hcs : (s.chan c).cycles with
  | none => exact h
  | some cs =>
    obtain ⟨hlevel, hcycles, hpen⟩ := h
    refine ⟨hlevel, fun cs' hcs' => ?_, hpen⟩
    cases hcs'; exact ⟨(hcycles cs hcs).1, hspacing⟩

/-! ### Leaving a state and seeking (R96 to R103, R120) -/

theorem wake_steady (s : State) : Steady s (wake s) := by
  unfold wake
  split
  · rename_i hm
    have hseek := seek_steady (s := s) (k := { s.seek with timer := s.seek.timer.map fun t => min t (s.now + msec 4) }) rfl
    exact ⟨hseek.toKept.trans (mode_kept .active _), rfl, rfl, rfl, .inr ⟨hm, rfl⟩⟩
  · exact .refl _

theorem beginPass_steady (s : State) : Steady s (beginPass s).1 := by
  unfold beginPass
  split
  · exact seek_steady rfl
  · exact .refl _

theorem abandonPass_steady (c : Chan) (s : State) : Steady s (abandonPass c s) := by
  unfold abandonPass
  split
  · split
    · exact ((withdraw_steady _ s).trans (abandonRunning_steady _ _)).trans (endPass_steady _)
    · exact .refl _
  · exact .refl _

theorem abandonCycle_steady (c : Chan) (s : State) : Steady s (abandonCycle c s) := by
  unfold abandonCycle
  refine ((withdraw_steady (Request.tracksFor c) s).trans (abandonRunning_steady (Job.tracks c) _)).trans
    (modChan_steady fun h => ?_)
  split
  · split <;> exact h
  · exact h

theorem leaveState_steady (c : Chan) (s : State) : Steady s (leaveState c s) := by
  unfold leaveState
  split
  · exact abandonPass_steady c s
  · exact (abandonCycle_steady c s).trans (dropRecords_steady c _)
  · exact (abandonCycle_steady c s).trans (dropRecords_steady c _)
  · exact .refl _

theorem enterSeek_steady (c : Chan) (s : State) : Steady s (enterSeek c s).1 := by
  have hseek : Steady s (timeDormant (setState c .seek (leaveState c s))) :=
    ((leaveState_steady c s).trans (setState_steady c _ _)).trans (timeDormant_steady _)
  unfold enterSeek
  simp only
  split
  · exact hseek.trans (beginPass_steady _)
  · exact hseek

theorem moveTo_steady (c : Chan) (st : ChanState) (s : State) : Steady s (moveTo c st s) :=
  ((leaveState_steady c s).trans (setState_steady c st _)).trans (dormant_steady _ _)

theorem find_steady (c : Chan) (strength x y : Nat) (s : State) : Steady s (find c strength x y s) :=
  (((wake_steady s).trans (endPass_steady _)).trans (queueFrame_steady _ _)).trans (moveTo_steady c _ _)

theorem nextGroup_steady (c : Chan) (pos : Nat) (s : State) : Steady s (nextGroup c pos s).1 := by
  unfold nextGroup
  split
  · exact seek_steady rfl
  · exact endPass_steady s

theorem seekResult_steady (c : Chan) (seq : Sequence) (s : State) : Steady s (seekResult c seq s).1 := by
  unfold seekResult
  split
  · split
    · exact .refl _
    split
    · exact backOff_steady s
    split
    · unfold seekXResult
      simp only
      split
      · exact seek_steady rfl
      · exact nextGroup_steady ..
    · unfold seekYResult
      simp only
      split
      · exact find_steady ..
      split
      · exact seek_steady rfl
      · exact nextGroup_steady ..
  · exact .refl _

/-! ### Holding (R105, R112 to R119, R126 to R131, R137) -/

theorem startCycle_steady (c : Chan) (s : State) : Steady s (startCycle c s) := by
  unfold startCycle
  split
  · rename_i cs pen hcs hpen
    refine Steady.trans (modChan_steady fun h => ?_) (queueFrame_steady _ _)
    obtain ⟨hlevel, hcycles, hpens⟩ := h
    refine ⟨hlevel, fun cs' hcs' => ?_, hpens⟩
    cases hcs'; exact hcycles cs hcs
  · exact .refl _

theorem startFirst_steady (c : Chan) (s : State) : Steady s (startFirst c s) := by
  unfold startFirst
  split
  · exact startCycle_steady c s
  · exact .refl _

theorem enterHold_steady {pen : Pen} {level : Nat} (c : Chan) (strength first : Nat) (byTake : Bool) (s : State)
    (hlevel : level ≤ 3) (hpen : pen.weakCount ≤ 4) : Steady s (enterHold c pen level strength first byTake s) := by
  refine (moveTo_steady c .hold s).trans (modChan_steady fun _ => ⟨hlevel, fun cs hcs => ?_, fun p hp => ?_⟩)
  · cases hcs; exact ⟨Nat.zero_le _, Nat.zero_le _⟩
  · cases hp; exact hpen

theorem decideClaim_steady (c : Chan) (cl : Claim) (s : State) : Steady s (decideClaim c cl s) := by
  unfold decideClaim
  split
  · exact (enterHold_steady c _ _ _ s le_rfl (Nat.zero_le _)).trans (startFirst_steady c _)
  · exact moveTo_steady ..

theorem takePen_steady {f : YieldFields} (origin : Nat) (s : State) (hlevel : f.level ≤ 3) : Steady s (takePen origin f s) :=
  ((enterHold_steady f.ch _ _ _ s hlevel (Nat.zero_le _)).trans (queueFrame_steady _ _)).trans (startFirst_steady _ _)

theorem reachBarrier_steady (c : Chan) (fault : Bool) (s : State) : Steady s (reachBarrier c fault s).1 := modCycle_steady ..

theorem yieldTest_steady {c : Chan} {n k : Nat} {ct : Contents} {s : State} (hk : ChannelBounded (s.chan c) → k ≤ 8) :
    Steady s (yieldTest c ct n k s) := by
  unfold yieldTest
  split
  · exact setSpacing_steady fun h => (Nat.sub_le _ _).trans (hk h)
  split
  · exact (queueFrame_steady _ s).trans (enterYield_steady c _)
  · exact .refl _

theorem loseChannel_steady (c : Chan) (n : Nat) (s : State) : Steady s (loseChannel c n s).1 :=
  (queueFrame_steady _ s).trans (enterSeek_steady c _)

theorem finishCycle_steady (c : Chan) (ct : Contents) (disturbed lost : Bool) (s : State) :
    Steady s (finishCycle c ct disturbed lost s).1 := by
  unfold finishCycle
  split
  · rename_i cs hcs
    split
    · rename_i cy hcy
      have hended : ∀ f, Steady s ((queueFrame f s).modChan c fun ch =>
          { ch with cycles := some { cs with current := none, overrun := 0 } }) := fun f =>
        (queueFrame_steady f s).trans (modChan_steady fun h => by
          obtain ⟨hlevel, hcycles, hpen⟩ := h
          refine ⟨hlevel, fun cs' hcs' => ?_, hpen⟩
          cases hcs'; exact ⟨Nat.zero_le _, (hcycles cs (by simpa using hcs)).2⟩)
      simp only
      split
      · exact (hended _).trans (loseChannel_steady c _ _)
      · refine (hended _).trans (yieldTest_steady fun h => ?_)
        exact (h.2.1 { cs with current := none, overrun := 0 } (by simp)).2
    · exact .refl _
  · exact .refl _

/-- The level after an estimate stays in range (R36, R37). -/
theorem adjustLevel_le {level : Nat} (set : Settings) (r : CycleRecord) (h : level ≤ 3) : (adjustLevel set level r).1 ≤ 3 := by
  unfold adjustLevel
  split
  · exact (Nat.sub_le _ _).trans h
  split
  · rename_i hfaint; simp at hfaint; exact hfaint.2
  · exact h

/-- An estimate keeps level and weak count in range (R36, R80). -/
theorem estimate_bounded {level : Nat} (set : Settings) (c : Chan) (r : CycleRecord) (pen : Pen) (h : level ≤ 3) :
    (estimate set c level r pen).level ≤ 3 ∧ (estimate set c level r pen).pen.weakCount ≤ 4 := by
  unfold estimate
  split
  · exact ⟨adjustLevel_le set r h, Nat.min_le_right ..⟩
  · exact ⟨adjustLevel_le set r h, Nat.zero_le _⟩

theorem endBorderWait_steady (c : Chan) (s : State) : Steady s (endBorderWait c s).1 := by
  unfold endBorderWait
  split
  · rename_i r pen hr hpen
    refine Steady.trans (modChan_steady fun h => ?_) (finishCycle_steady c _ _ _ _)
    obtain ⟨hlevel, hcycles, _⟩ := h
    obtain ⟨hl, hw⟩ := estimate_bounded s.settings c (closeRecord r) pen hlevel
    refine ⟨hl, hcycles, fun p hp => ?_⟩
    cases hp; exact hw
  · exact .refl _

theorem endHeld_steady (c : Chan) (s : State) : Steady s (endHeld c s).1 := by
  unfold endHeld
  split
  · exact finishCycle_steady ..
  · exact .refl _

theorem beginBorderWait_steady (c : Chan) (s : State) : Steady s (beginBorderWait c s).1 := by
  have hwait : Steady s (modCycle c (fun cy => { cy with phase := .borderWait, border := some (s.now + usec 296) }) s) :=
    modCycle_steady ..
  unfold beginBorderWait
  simp only
  split
  · split
    · exact hwait.trans (endBorderWait_steady c _)
    · exact hwait
  · exact hwait

theorem tipResult_steady (c : Chan) (seq : Sequence) (s : State) : Steady s (tipResult c seq s).1 := by
  unfold tipResult
  split
  · split
    · exact .refl _
    split
    · exact (modRecord_steady c _ s).trans (modCycle_steady c _ _)
    split
    · exact modCycle_steady c _ s
    · exact endHeld_steady c s
  · exact .refl _

theorem collarResult_steady (c : Chan) (seq : Sequence) (s : State) : Steady s (collarResult c seq s).1 := by
  unfold collarResult
  split
  · split
    · exact .refl _
    split
    · exact beginBorderWait_steady c s
    · exact (modRecord_steady c _ s).trans (beginBorderWait_steady c _)
  · exact .refl _

theorem abandonedEnds_steady (c : Chan) (s : State) : Steady s (abandonedEnds c s) := by
  have hover : Steady s (s.modChan c fun ch => { ch with abandoned := none }) := modChan_steady id
  unfold abandonedEnds
  simp only
  split
  · split
    · exact hover.trans (startCycle_steady c _)
    · exact hover
  · exact hover

theorem reportDue_steady (c : Chan) (s : State) : Steady s (reportDue c s) := by
  unfold reportDue
  split
  · exact .refl _
  · rename_i cs hcs
    have hkeeps : ∀ (u : State) (cs' : CycleState), (ChannelBounded (u.chan c) → cs'.overrun ≤ 255 ∧ cs'.spacing ≤ 8) →
        Steady u (u.modChan c fun ch => { ch with cycles := some cs' }) := fun u cs' hcs' =>
      modChan_steady fun h => ⟨h.1, fun cs'' hcs'' => by cases hcs''; exact hcs' h, h.2.2⟩
    have htimed := (clock_steady (max s.now cs.timer) s).trans
      (hkeeps (reach cs.timer s) { cs with timer := cs.timer + reportInterval s.settings }
        fun h => h.2.1 cs (by simpa using hcs))
    simp only
    split
    · split
      · refine htimed.trans (hkeeps _ _ fun h => ⟨Nat.min_le_left .., ?_⟩)
        exact (h.2.1 { cs with timer := cs.timer + reportInterval s.settings } (by simp)).2
      · exact htimed.trans (startCycle_steady c _)
    · exact htimed

/-! ### Arming and captures (R121 to R124) -/

theorem considerArming_steady (c : Chan) (origin cycle : Nat) (wx wy : WantField) (s : State) :
    Steady s (considerArming c origin cycle wx wy s) := by
  unfold considerArming
  split
  · exact .refl _
  · exact setArming_steady ..

theorem completeArming_steady (c : Chan) (a : Arming) (s : State) : Steady s (completeArming c a s) := by
  unfold completeArming
  split
  · exact (setArming_steady c _ s).trans (queueFrame_steady _ _)
  · exact setArming_steady ..

theorem captureResult_steady (c : Chan) (k : Coil) (seq : Sequence) (s : State) : Steady s (captureResult c k seq s) := by
  unfold captureResult
  split
  · split
    · exact .refl _
    split
    · exact setArming_steady ..
    · exact completeArming_steady ..
  · exact .refl _

theorem ageOut_steady (c : Chan) (a : Arming) (s : State) : Steady s (ageOut c a s) := by
  unfold ageOut
  split
  · exact (setArming_steady c _ s).trans (queueFrame_steady _ _)
  · exact setArming_steady ..

theorem onBorder_steady (origin : Nat) (b : Border) (s : State) : Steady s (onBorder origin b s).1 := by
  unfold onBorder
  split
  · unfold takeBorder
    split
    · rename_i r cy hr hcy
      have hmerged : Steady s (modRecord b.ch (mergeBorder s.straps origin b) s) := modRecord_steady ..
      simp only
      split
      · split
        · exact (hmerged.trans (modCycle_steady _ _ _)).trans (endBorderWait_steady _ _)
        · exact hmerged.trans (modCycle_steady _ _ _)
      · exact hmerged
    · exact .refl _
  · exact .refl _

/-! ### Received frames (R128 to R138, R167) -/

theorem becomeActive_kept (s : State) : Kept s (becomeActive s).1 := by
  have hA : Kept s (setState .A .seek { s with mode := .active }) := (mode_kept _ s).trans (setState_steady _ _ _).toKept
  unfold becomeActive
  refine Kept.trans (Kept.trans ?_ (timeDormant_steady _).toKept) (beginPass_steady _).toKept
  split
  · exact hA.trans (setState_steady _ _ _).toKept
  · exact hA

theorem holderHeard_steady (c : Chan) (origin : Nat) (s : State) : Steady s (holderHeard c origin s) := by
  have hstand : Steady s (standBy c origin s) := moveTo_steady ..
  have hduel : Steady s (duel c origin s) := by
    unfold duel
    split
    · exact .refl _
    · exact hstand
  unfold holderHeard
  split
  · exact .refl _
  · exact hduel
  · exact hduel
  all_goals exact hstand

theorem onSighting_steady (c : Chan) (origin strength : Nat) (s : State) : Steady s (onSighting c origin strength s) := by
  unfold onSighting
  split
  · exact moveTo_steady ..
  · exact setState_steady ..
  · exact .refl _

theorem onYield_steady {f : YieldFields} (origin : Nat) (s : State) (hlevel : f.level ≤ 3) : Steady s (onYield origin f s) := by
  unfold onYield
  split
  · split
    all_goals first | exact takePen_steady origin s hlevel | exact .refl _
  · exact .refl _

theorem onTake_steady (c : Chan) (origin releaser : Nat) (s : State) : Steady s (onTake c origin releaser s) := by
  unfold onTake
  split
  · exact moveTo_steady ..
  · exact holderHeard_steady ..

theorem onLost_steady (c : Chan) (origin : Nat) (s : State) : Steady s (onLost c origin s).1 := by
  unfold onLost
  split
  · exact enterSeek_steady ..
  · split
    · exact enterSeek_steady ..
    · exact .refl _
  · exact .refl _

theorem restartChannel_steady (c : Chan) (s : State) : Steady s (restartChannel c s) := by
  refine ((abandonCycle_steady c s).trans (dropRecords_steady c _)).trans (modChan_steady fun h => ?_)
  exact ⟨le_rfl, h.2⟩

theorem restartCommon_steady (s : State) : Steady s (restartCommon s) := by
  have hengine : Steady s (restartEngine s) := (abandonRunning_steady _ s).trans (queue_steady (List.nil_sublist _))
  have hseek : ∀ u, Steady u (restartSeek u) := fun u => seek_steady rfl
  have hown : ∀ u : State, Steady u { u with link := { u.link with own := [] } } := fun u =>
    link_steady fun ⟨hbuf, _, hdrop⟩ => ⟨hbuf, Nat.zero_le _, hdrop⟩
  exact (((((hengine.trans (restartChannel_steady .A _)).trans (restartChannel_steady .B _)).trans (hseek _)).trans
    (hown _)).trans (dormant_steady none _))

theorem softRestart_kept (s : State) : Kept s (softRestart s).1 := by
  have hcommon := (restartCommon_steady s).toKept
  have howed : ∀ u : State, Kept u { u with baseline := { u.baseline with owed := 0 } } := fun u =>
    baseline_kept rfl fun ⟨_, hc, hp, _⟩ => ⟨Nat.zero_le _, hc, hp⟩
  unfold softRestart
  split
  · exact hcommon
  · exact (hcommon.trans (howed _)).trans (becomeActive_kept _)

/-- The level of a well-formed YIELD is in range (R156). -/
theorem level_of_readCopy {k : Kind} {o : List Byte} {y : YieldFields} (h : readCopy k o = some (.yield y)) : y.level ≤ 3 := by
  unfold readCopy at h
  split at h
  case isFalse => cases h
  cases k with
  | yield =>
    simp only [readFrame, readYield] at h
    split at h
    case h_1 _ _ level _ _ hlevel =>
      cases h
      unfold readLevel at hlevel
      split at hlevel <;> cases hlevel
      assumption
    case h_2 => cases h
  | sighting => simp only [readFrame, readSighting, Option.map_eq_some_iff] at h; obtain ⟨_, _, h⟩ := h; cases h
  | lost => simp only [readFrame, readLost, Option.map_eq_some_iff] at h; obtain ⟨_, _, h⟩ := h; cases h
  | notice => simp only [readFrame, readNotice] at h; split at h <;> cases h
  | report => simp only [readFrame, readReport] at h; split at h <;> cases h
  | take => simp only [readFrame, readTake] at h; split at h <;> cases h
  | restart => cases h
  | border =>
    simp only [readFrame, readBorder] at h
    split at h
    · split at h <;> cases h
    · cases h

theorem penEffect_steady {f : Frame} (origin : Nat) (s : State) (hf : ∀ y, f = .yield y → y.level ≤ 3) :
    Steady s (penEffect origin f s).1 := by
  cases f with
  | sighting => exact onSighting_steady ..
  | notice ch cycle _ wx wy => exact (holderHeard_steady ch origin s).trans (considerArming_steady _ _ _ _ _ _)
  | report => exact holderHeard_steady ..
  | yield y => exact onYield_steady origin s (hf y rfl)
  | take => exact onTake_steady ..
  | lost => exact onLost_steady ..
  | border => exact .refl _
  | restart => exact .refl _

theorem penFrame_steady {f : Frame} (origin : Nat) (s : State) (hf : ∀ y, f = .yield y → y.level ≤ 3) :
    Steady s (penFrame origin f s).1 :=
  ((wake_steady s).trans (penEffect_steady origin _ hf)).trans (timeDormant_steady _)

theorem onCopy_kept {f : Frame} (origin : Nat) (s : State) (hf : ∀ y, f = .yield y → y.level ≤ 3) :
    Kept s (onCopy origin f s).1 := by
  unfold onCopy
  split
  · exact softRestart_kept s
  · split
    · exact (onBorder_steady ..).toKept
    · exact (Steady.refl s).toKept
  · split
    · exact (penFrame_steady origin s hf).toKept
    · exact (Steady.refl s).toKept
  · exact (Steady.refl s).toKept

/-! ### Results but those of baseline listens -/

theorem discard_steady (seq : Sequence) (s : State) : Steady s (discard seq s) := by
  unfold discard
  split
  · exact abandonedEnds_steady ..
  · exact abandonedEnds_steady ..
  · exact .refl _

end Sys2Proof.Machine
end

section
/-! PROOFS. Laws of the engine and the ranges: what they must bear so that every step keeps them. -/

namespace Sys2Proof.Machine

/-! ### Updates outside the engine -/

theorem pending_kept (l : List Instr) (s : State) : Kept s { s with pending := l } := ⟨rfl, rfl, rfl, rfl, .inl rfl, id⟩

/-- A request that joins or replaces leaves at most one of each requester (R32). -/
theorem enqueue_pairwise (r : Request) {q : List Request} (h : q.Pairwise fun a b => ¬ SameRequester a b) :
    (enqueue r q).Pairwise fun a b => ¬ SameRequester a b := by
  unfold enqueue
  split
  · rw [List.pairwise_map]
    refine h.imp fun {a b} hab => ?_
    simp only [sameRequester_iff]
    split <;> split <;> simp_all [SameRequester]
  · rename_i hnone
    refine List.pairwise_append.2 ⟨h, List.pairwise_singleton .., fun a ha b hb => ?_⟩
    obtain rfl := List.mem_singleton.1 hb
    have hne : ¬ SameRequester b a := fun hsame => hnone (List.any_eq_true.2 ⟨a, ha, (sameRequester_iff b a).2 hsame⟩)
    exact fun hsame => hne ⟨hsame.1.symm, hsame.2.symm⟩

theorem enqueue_kept (r : Request) (s : State) : Kept s { s with queue := enqueue r s.queue } :=
  ⟨rfl, rfl, rfl, rfl, .inl rfl, fun hs => ⟨enqueue_pairwise r hs.1, hs.2⟩⟩

theorem beginSweep_kept (s : State) : Kept s (beginSweep s) :=
  baseline_kept rfl fun _ => ⟨by simp, by simp, .inl rfl⟩

theorem endSweep_kept (s : State) : Kept s (endSweep s) :=
  baseline_kept rfl fun h => ⟨Nat.zero_le _, h.2.1, h.2.2.1⟩

theorem goDormant_kept (t : Nat) (s : State) : Kept s (goDormant t s) := by
  have hslot : BaselineBounded s → evenSlot s.baseline.counter < 24 := fun h => by
    have hc := h.2.1
    unfold evenSlot
    split <;> omega
  exact ((mode_kept .dormant s).trans (dormant_steady none _).toKept).trans
    (baseline_kept rfl fun h => ⟨h.1, hslot h, h.2.2.1⟩)

/-- The seed of a tile is a value of the LFSR (R101). -/
theorem lfsrSeed_bounded (st : Straps) : 1 ≤ lfsrSeed st ∧ lfsrSeed st ≤ 65535 := by
  have := st.col.isLt
  have := st.row.isLt
  unfold lfsrSeed ownIndex indexAt
  omega

theorem leaveReset_kept (st : Straps) (s : State) : Kept s (leaveReset st s) :=
  ⟨rfl, rfl, rfl, rfl, .inl rfl, fun hs => by
    obtain ⟨hq, hl, hb, hA, hB, _⟩ := hs
    exact ⟨hq, hl, hb, hA, hB, lfsrSeed_bounded st⟩⟩

/-! ### The arbiter's queue -/

/-- What is chosen waited, and was eligible and of the class; the queue left is part of the queue (R33). -/
theorem pick_spec (cls ok : Request → Bool) : ∀ q : List Request,
    (pick cls ok q).2.Sublist q ∧
      ∀ r, (pick cls ok q).1 = some r → r ∈ q ∧ cls r = true ∧ ok r = true ∧ (r :: (pick cls ok q).2).Subperm q
  | [] => ⟨List.Sublist.refl _, nofun⟩
  | a :: q => by
    obtain ⟨ihq, ihr⟩ := pick_spec cls ok q
    unfold pick
    split
    · rename_i hcls
      split
      · rename_i hok
        refine ⟨List.sublist_cons_self .., fun r hr => ?_⟩
        cases hr
        exact ⟨List.mem_cons_self .., hcls, hok, List.Subperm.refl _⟩
      · refine ⟨ihq.cons _, fun r hr => ?_⟩
        obtain ⟨hmem, hc, ho, hsub⟩ := ihr r hr
        exact ⟨List.mem_cons_of_mem _ hmem, hc, ho, hsub.trans (List.sublist_cons_self ..).subperm⟩
    · refine ⟨ihq.cons_cons _, fun r hr => ?_⟩
      obtain ⟨hmem, hc, ho, hsub⟩ := ihr r hr
      exact ⟨List.mem_cons_of_mem _ hmem, hc, ho,
        (List.Perm.swap ..).subperm.trans ((List.subperm_cons a).2 hsub)⟩

/-- All that the grant of an idle engine can do: queue shortened; a baseline listen; or a waiting request's sequence, the request gone from the queue (R33, R34). -/
theorem grant_cases (s : State) :
    (∃ q, q.Sublist s.queue ∧ grant s = { s with queue := q }) ∨
    (s.engine.running = none ∧ 1 ≤ s.baseline.owed ∧
      ∃ q, q.Sublist s.queue ∧ grant s = startSequence .listen (baselineSequence s) { s with queue := q }) ∨
    (s.engine.running = none ∧ ∃ r q, r ∈ s.queue ∧ q.Sublist s.queue ∧ (r :: q).Subperm s.queue ∧
      grant s = startSequence .drive (sequenceOf r s) { s with queue := q }) := by
  unfold grant
  split
  · exact .inl ⟨_, List.Sublist.refl _, rfl⟩
  rename_i hidle
  split
  · exact .inl ⟨_, List.Sublist.refl _, rfl⟩
  unfold choose
  split
  · rename_i hforced
    have howed : 8 ≤ s.baseline.owed := by simpa [refreshForced] using hforced
    exact .inr (.inl ⟨hidle, by omega, _, List.Sublist.refl _, rfl⟩)
  obtain ⟨hsub, hchosen⟩ := pick_spec (fun r => r.ask.tracks) (eligible s) s.queue
  split
  · rename_i r q hpick
    rw [hpick] at hsub hchosen
    obtain ⟨hmem, _, _, hperm⟩ := hchosen r rfl
    exact .inr (.inr ⟨hidle, r, q, hmem, hsub, hperm, rfl⟩)
  rename_i q hpick
  rw [hpick] at hsub
  obtain ⟨hsub', hchosen'⟩ := pick_spec (fun r => !r.ask.tracks) (eligible s) q
  split
  · rename_i r q' hpick'
    rw [hpick'] at hsub' hchosen'
    obtain ⟨hmem, _, _, hperm⟩ := hchosen' r rfl
    exact .inr (.inr ⟨hidle, r, q', hsub.subset hmem, hsub'.trans hsub, hperm.trans hsub.subperm, rfl⟩)
  rename_i q' hpick'
  rw [hpick'] at hsub'
  simp only
  split
  · rename_i hstands
    have howed : 1 ≤ s.baseline.owed := by simpa [refreshStands] using hstands
    exact .inr (.inl ⟨hidle, howed, q', hsub'.trans hsub, rfl⟩)
  · exact .inl ⟨q', hsub'.trans hsub, rfl⟩

/-! ### Sequences that begin -/

/-- A sequence can begin in a phase: a driven one in DRIVE; an undriven one, which drives no loop, in SETTLE or LISTEN (R16 to R18, R31). -/
def Begins (ph : Phase) (seq : Sequence) : Prop :=
  (ph = .drive ∧ seq.job.work ≠ none) ∨ ((ph = .settle ∨ ph = .listen) ∧ seq.job.work = none ∧ seq.loops = [])

/-- The work of a granted request's sequence is the request's (R32). -/
theorem sequenceOf_work (r : Request) (s : State) : (sequenceOf r s).job.work = some (r.ch, r.ask.work) := by
  unfold sequenceOf
  cases r.ask <;> rfl

/-- A sequence is driven when it has work of a channel (R16, R32). -/
theorem driven_iff (j : Job) : j.driven = true ↔ j.work ≠ none := by cases j <;> simp [Job.driven, Job.work]

/-- A driven sequence runs at one of the four frequency indices (R14). -/
theorem freq_lt_of_work {j : Job} (h : j.work ≠ none) : j.freq < 4 := by
  cases j with
  | tip c => cases c <;> decide
  | collar c => cases c <;> decide
  | seekX c => cases c <;> decide
  | seekY c => cases c <;> decide
  | capture => exact absurd rfl h
  | baseline => exact absurd rfl h

/-! ### The package for laws of the engine -/

/-- What a law of the state must bear so that every step keeps it, when what the tracker does cannot break it. -/
structure EngineLaw (P : State → Prop) : Prop where
  kept : ∀ s t, Kept s t → P s → P t
  reset : ∀ s ends, P s → P (enterReset ends s)
  image : ∀ s o, P s → P (loadImage o s)
  settle : ∀ s r foreign, s.engine.running = some r → r.phase = .drive → P s →
    P (enterPhase .settle r.seq (unmask r.seq.job.freq foreign s))
  listen : ∀ s r, s.engine.running = some r → r.phase = .settle → P s → P (enterPhase .listen r.seq s)
  damp : ∀ s r d ps, s.engine.running = some r → r.phase = .settle ∨ r.phase = .listen → r.seq.job.work ≠ none →
    Heard s ps → P s → P (enterDamp { r.seq with disturbed := d } (s.hearing ps))
  heard : ∀ s r ps, s.engine.running = some r → r.phase = .settle ∨ r.phase = .listen → Heard s ps → P s →
    P (goIdle (s.hearing ps))
  damped : ∀ s r foreign, s.engine.running = some r → r.phase = .damp → P s →
    P (goIdle (unmask r.seq.job.freq foreign s))
  rise : ∀ s f, detectorAt f s = .quiet → P s → P (setDetector f .present s)
  quiet : ∀ s f, detectorAt f s = .present → P s → P (setDetector f .quiet s)
  start : ∀ s ph seq, s.engine.running = none → Begins ph seq → P s → P (startSequence ph seq s)
  floors : ∀ s slot w (b : Baseline), w = refreshFloor s.now ∨ (∃ pass, w = sweepFloor pass s.now) →
    b.table = writeSlot w slot s →
    (BaselineBounded s → b.owed ≤ 8 ∧ b.counter < 24 ∧ (b.pass = 1 ∨ b.pass = 2)) → P s → P { s with baseline := b }

namespace EngineLaw

variable {P : State → Prop} (h : EngineLaw P)
include h

theorem steady {s t : State} (hk : Steady s t) (hs : P s) : P t := h.kept _ _ hk.toKept hs

theorem fieldFalls {s : State} (f : Nat) (hs : P s) : P (fieldFalls f s) := by
  unfold Machine.fieldFalls
  split
  · rename_i hpresent
    have hquiet := h.quiet s f hpresent hs
    unfold fallReported
    split
    · rename_i a hidle harm
      split
      · exact h.start _ _ _ (by simpa [setArming] using hidle) (.inr ⟨.inl rfl, rfl, rfl⟩)
          (h.steady (setArming_steady ..) hquiet)
      · exact hquiet
    · exact hquiet
  · exact hs

theorem grant {s : State} (hs : P s) : P (grant s) := by
  rcases grant_cases s with ⟨q, hq, hg⟩ | ⟨hidle, _, q, hq, hg⟩ | ⟨hidle, r, q, _, hq, _, hg⟩ <;> rw [hg]
  · exact h.steady (queue_steady hq) hs
  · exact h.start _ _ _ hidle (.inr ⟨.inr rfl, rfl, rfl⟩) (h.steady (queue_steady hq) hs)
  · exact h.start _ _ _ hidle (.inl ⟨rfl, by rw [sequenceOf_work]; nofun⟩) (h.steady (queue_steady hq) hs)

theorem baselineResult {s : State} (slot : Nat) (seq : Sequence) (hs : P s) : P (baselineResult slot seq s).1 := by
  unfold Machine.baselineResult
  split
  · exact hs
  split
  · have hstep : (stepSweep (writeSweep slot s).baseline).1.table = writeSlot (sweepFloor s.baseline.pass s.now) slot s := by
      unfold stepSweep; split <;> (try split) <;> rfl
    have hwritten : P { writeSweep slot s with baseline := (stepSweep (writeSweep slot s).baseline).1 } := by
      refine h.floors s slot _ _ (.inr ⟨_, rfl⟩) hstep (fun hb => ?_) hs
      obtain ⟨ho, hc, hp, _⟩ := hb
      have hparts : (writeSweep slot s).baseline.owed = s.baseline.owed ∧
          (writeSweep slot s).baseline.counter = s.baseline.counter ∧
          (writeSweep slot s).baseline.pass = s.baseline.pass := ⟨rfl, rfl, rfl⟩
      unfold stepSweep
      split
      · exact ⟨ho, by simp only; omega, hp⟩
      · split
        · exact ⟨ho, by simp, .inr rfl⟩
        · exact ⟨ho, by simp, hp⟩
    unfold sweepResult
    simp only
    split
    · exact h.kept _ _ ((endSweep_kept _).trans (becomeActive_kept _)) hwritten
    · exact hwritten
  · refine h.floors s slot _ _ (.inl rfl) rfl (fun hb => ?_) hs
    obtain ⟨ho, hc, hp, _⟩ := hb
    refine ⟨(Nat.sub_le _ _).trans ho, ?_, hp⟩
    simp only [nextSlot]
    split
    · split <;> omega
    · omega

theorem conclude {s : State} (seq : Sequence) (hs : P s) : P (conclude seq s).1 := by
  unfold Machine.conclude
  split
  · exact h.steady (discard_steady seq s) hs
  · unfold deliver
    cases seq.job with
    | tip c => exact h.steady (tipResult_steady ..) hs
    | collar c => exact h.steady (collarResult_steady ..) hs
    | seekX c => exact h.steady (seekResult_steady ..) hs
    | seekY c => exact h.steady (seekResult_steady ..) hs
    | capture c k => exact h.steady (captureResult_steady ..) hs
    | baseline slot => exact h.baselineResult slot seq hs

/-- A law of the engine is kept by every meaning. -/
theorem lawKept : LawKept fun r => P r.1 where
  pending s l := h.kept _ _ (pending_kept l s)
  clock s n := h.steady (clock_steady n s)
  reset s ends := h.reset s ends
  leave s st _ := h.kept _ _ (leaveReset_kept st s)
  outside s o _ hs := h.kept _ _ (mode_kept .outside _) (h.image s o hs)
  sweep s o _ _ hs := h.kept _ _ (beginSweep_kept _) (h.image s o hs)
  settle := h.settle
  listen := h.listen
  damp s r d ps hrun hp hd := h.damp s r d ps hrun hp ((driven_iff _).1 hd)
  heard s r d ps hrun hp _ hps hs := h.conclude _ (h.heard s r ps hrun hp hps hs)
  damped s r foreign hrun hp hs := h.conclude _ (h.damped s r foreign hrun hp hs)
  rise := h.rise
  fall s _ f := h.fieldFalls f.val
  grant s _ := h.grant
  enqueue s q := h.kept _ _ (enqueue_kept q s)
  refresh s t _ := h.kept _ _ (baseline_kept rfl fun hb => ⟨by have := hb.1; simp only; split <;> omega, hb.2.1, hb.2.2.1⟩)
  dormant s t _ := h.kept _ _ (goDormant_kept t s)
  seek s t _ := h.steady ((seek_steady (k := { s.seek with timer := none }) rfl).trans (beginPass_steady _))
  backoff s t _ := h.steady ((seek_steady (k := { s.seek with backoff := none }) rfl).trans (beginPass_steady _))
  claim s c cl _ := h.steady (decideClaim_steady c cl s)
  seekAgain s c _ := h.steady (enterSeek_steady c s)
  report s c := h.steady (reportDue_steady c s)
  barrier s c _ fault _ _ := h.steady (reachBarrier_steady c fault s)
  border s c _ _ _ := h.steady (endBorderWait_steady c s)
  yield s c _ _ := h.steady ((setState_steady c .hold s).trans (setSpacing_steady fun _ => le_rfl))
  age s c a _ := h.steady (ageOut_steady c a s)
  link s l hb ho hd := h.steady (link_steady fun hl => ⟨hb.trans hl.1, ho.trans hl.2.1, hd.trans hl.2.2⟩)
  buffer s o hroom := h.steady (link_steady fun hl => ⟨by simp; omega, hl.2.1, hl.2.2⟩)
  copy s k o f _ hf := h.kept _ _ (onCopy_kept _ s fun y hy => level_of_readCopy (hy ▸ hf))

/-- A law of the engine is kept by every step. -/
theorem step {s t : State} (hs : P s) (ht : Machine.step s = .next t) : P t := h.lawKept.step (A := fun r => P r.1) hs ht

end EngineLaw

end Sys2Proof.Machine
end

section
/-! PROOFS. Every step keeps the ranges, the masks and the readings (O54, O56, O57). -/

namespace Sys2Proof.Machine

/-! ### Ranges -/

theorem atReset_bounded : ChannelBounded Channel.atReset := by
  simp [ChannelBounded, Channel.atReset]

theorem enterReset_ranges {s : State} (ends : Nat) (h : RangesLawful s) : RangesLawful (enterReset ends s) := by
  obtain ⟨_, _, _, _, _, hlfsr⟩ := h
  have hbaseline : BaselineBounded (enterReset ends s) :=
    ⟨Nat.zero_le _, Nat.zero_lt_succ 23, .inl rfl, List.length_replicate⟩
  exact ⟨List.Pairwise.nil, ⟨Nat.zero_le _, Nat.zero_le _, Nat.zero_le _⟩, hbaseline, atReset_bounded, atReset_bounded, hlfsr⟩

/-- The ranges do not speak of the engine, the detectors and the settings. -/
theorem rangesLaw : EngineLaw RangesLawful where
  kept _ _ h := h.ranges
  reset _ ends := enterReset_ranges ends
  image s o h := by unfold loadImage; split <;> exact h
  settle _ _ _ _ _ := id
  listen _ _ _ _ := id
  damp _ _ _ _ _ _ _ _ := id
  heard _ _ _ _ _ _ := id
  damped _ _ _ _ _ := id
  rise _ _ _ := id
  quiet _ _ _ := id
  start s ph seq _ _ h := by unfold startSequence; simp only; split <;> exact h
  floors s slot w b _ ht hb h := by
    obtain ⟨ho, hc, hp⟩ := hb h.2.2.1
    exact h.baseline ho hc hp (by rw [ht, writeSlot_length]; exact h.2.2.1.2.2.2)

/-- Settles O54: what the tracker, the unit and the link do keeps the ranges (`Kept.ranges`), and so does the engine. -/
theorem stepsKeepTheRanges : Obligations.StepsKeepTheRanges := by
  intro s t hs ht
  exact rangesLaw.step hs ht

/-! ### Masks -/

/-- A detector's state after one of the four has been set. -/
theorem detectorAt_setDetector {f g : Nat} {s : State} (d : Detector) (hf : f < s.detectors.length) :
    detectorAt g (setDetector f d s) = if g = f then d else detectorAt g s := by
  unfold detectorAt setDetector
  simp only [List.getD_eq_getElem?_getD, List.getElem?_set]
  by_cases h : f = g
  · subst h; simp [hf]
  · simp [h, Ne.symm h]

theorem detectorAt_setDetector_ne {f g : Nat} {s : State} (d : Detector) (h : g ≠ f) :
    detectorAt g (setDetector f d s) = detectorAt g s := by
  unfold detectorAt setDetector
  simp only [List.getD_eq_getElem?_getD, List.getElem?_set, if_neg (Ne.symm h)]

/-- What is masked, when the engine masks nothing. -/
theorem maskLawful_of_unmasked {s : State} (hlen : s.detectors.length = 4)
    (hdet : ∀ f, f < 4 → detectorAt f s ≠ .masked) (hrun : ∀ r, s.engine.running = some r →
      r.phase = .settle ∨ r.phase = .listen) (hloops : ∀ r, s.engine.running = some r → r.seq.job.work = none → r.seq.loops = []) :
    MaskLawful s := by
  refine ⟨hlen, fun f hf => ⟨fun hm => absurd hm (hdet f hf), ?_⟩, fun r hr hw => ⟨hloops r hr hw, hrun r hr⟩⟩
  rintro ⟨r, hr, _, hp⟩
  rcases hrun r hr with h | h <;> rw [h] at hp <;> simp at hp

/-- A driven sequence enters DRIVE or DAMP and its index is masked, no other index being MASKED (R27). -/
theorem maskLawful_of_masked {s t : State} {r : Running} (hlen : s.detectors.length = 4)
    (hno : ∀ f, f < 4 → detectorAt f s ≠ .masked) (ht : t.detectors = s.detectors.set r.seq.job.freq .masked)
    (hrun : t.engine.running = some r) (hp : r.phase = .drive ∨ r.phase = .damp) (hw : r.seq.job.work ≠ none) :
    MaskLawful t := by
  have hat : ∀ f, detectorAt f t = if f = r.seq.job.freq then .masked else detectorAt f s := fun f =>
    (congrArg (fun l : List Detector => l.getD f .quiet) ht).trans
      (detectorAt_setDetector .masked (by rw [hlen]; exact freq_lt_of_work hw))
  refine ⟨by rw [ht]; simpa using hlen, fun f hf => ?_, fun r' hr' hw' => ?_⟩
  · rw [hat]
    constructor
    · intro hm
      split at hm
      · rename_i hfreq
        exact ⟨r, hrun, hfreq.symm, hp⟩
      · exact absurd hm (hno f hf)
    · rintro ⟨r', hr', hfreq, _⟩
      rw [hrun] at hr'; cases hr'
      rw [if_pos hfreq.symm]
  · rw [hrun] at hr'; cases hr'; exact absurd hw' hw

/-- In SETTLE, LISTEN and IDLE no index is MASKED (R27). -/
theorem MaskLawful.unmasked {s : State} (h : MaskLawful s)
    (hrun : ∀ r, s.engine.running = some r → r.phase = .settle ∨ r.phase = .listen) {f : Nat} (hf : f < 4) :
    detectorAt f s ≠ .masked := by
  intro hm
  obtain ⟨r, hr, _, hp⟩ := (h.2.1 f hf).1 hm
  rcases hrun r hr with hp' | hp' <;> rw [hp'] at hp <;> simp at hp

/-- In DRIVE and DAMP the sequence is driven, and the mask lifted from its index no index is MASKED (R27, R31). -/
theorem MaskLawful.lifted {s : State} {r : Running} (h : MaskLawful s) (hrun : s.engine.running = some r)
    (hp : r.phase = .drive ∨ r.phase = .damp) (foreign : Bool) {f : Nat} (hf : f < 4) :
    detectorAt f (unmask r.seq.job.freq foreign s) ≠ .masked ∧ r.seq.job.work ≠ none := by
  obtain ⟨hlen, hdet, hundriven⟩ := h
  have hw : r.seq.job.work ≠ none := by
    intro hw
    obtain ⟨_, hph | hph⟩ := hundriven r hrun hw <;> rw [hph] at hp <;> simp at hp
  refine ⟨?_, hw⟩
  unfold unmask
  rw [detectorAt_setDetector _ (by rw [hlen]; exact freq_lt_of_work hw)]
  split
  · cases foreign <;> simp
  · rename_i hne
    intro hm
    obtain ⟨r', hr', hfreq, _⟩ := (hdet f hf).1 hm
    rw [hrun] at hr'; cases hr'; exact hne hfreq.symm

/-- The abandoned mark concerns neither phase nor index. -/
theorem maskLawful_of_kept {s t : State} (hk : Kept s t) (h : MaskLawful s) : MaskLawful t := by
  obtain ⟨hlen, hdet, hundriven⟩ := h
  have hat : ∀ f, detectorAt f t = detectorAt f s := fun f => by unfold detectorAt; rw [hk.detectors]
  refine ⟨by rw [hk.detectors]; exact hlen, fun f hf => ?_, fun r hr hw => ?_⟩
  · rw [hat, hdet f hf]
    rcases hk.running with hrun | ⟨r, hr, hrun⟩
    · rw [hrun]
    · rw [hr, hrun]; simp
  · rcases hk.running with hrun | ⟨r', hr', hrun⟩
    · exact hundriven r (hrun ▸ hr) hw
    · rw [hrun] at hr; cases hr; exact hundriven r' hr' hw

/-- A detector that is not MASKED and does not become so leaves the masks alone. -/
theorem setDetector_masks {s : State} {f : Nat} {d : Detector} (hd : d ≠ .masked) (hf : detectorAt f s ≠ .masked)
    (h : MaskLawful s) : MaskLawful (setDetector f d s) := by
  obtain ⟨hlen, hdet, hundriven⟩ := h
  refine ⟨by simpa using hlen, fun g hg => ?_, hundriven⟩
  by_cases hgf : g = f
  · subst hgf
    rw [detectorAt_setDetector _ (by omega), if_pos rfl]
    exact ⟨fun h => absurd h hd, fun h => absurd ((hdet g hg).2 h) hf⟩
  · rw [detectorAt_setDetector_ne _ hgf]; exact hdet g hg

theorem masksLaw : EngineLaw MaskLawful where
  kept _ _ := maskLawful_of_kept
  reset s ends _ := by
    refine maskLawful_of_unmasked rfl (fun f hf => ?_) nofun nofun
    have hquiet : detectorAt f (enterReset ends s) = (List.replicate 4 Detector.quiet).getD f .quiet := rfl
    rw [hquiet, List.getD_replicate _ hf]; nofun
  image s o h := by unfold loadImage; split <;> exact h
  settle s r foreign hrun hp h := by
    have hlift := fun f => h.lifted (f := f) hrun (.inl hp) foreign
    refine maskLawful_of_unmasked (by simpa using h.1) (fun f hf => (hlift f hf).1) (fun r' hr' => ?_) fun r' hr' hw => ?_
    · cases hr'; exact .inl rfl
    · cases hr'; exact absurd hw (hlift 0 (by decide)).2
  listen s r hrun hp h := by
    have hsettle : ∀ r', s.engine.running = some r' → r'.phase = .settle ∨ r'.phase = .listen := fun r' hr' => by
      rw [hrun] at hr'; cases hr'; exact .inl hp
    refine maskLawful_of_unmasked h.1 (fun f hf => h.unmasked hsettle hf) (fun r' hr' => ?_) fun r' hr' hw => ?_
    · cases hr'; exact .inr rfl
    · cases hr'; exact (h.2.2 r hrun hw).1
  damp s r d ps hrun hp hw _ h := by
    have hopen : ∀ r', s.engine.running = some r' → r'.phase = .settle ∨ r'.phase = .listen := fun r' hr' => by
      rw [hrun] at hr'; cases hr'; exact hp
    exact maskLawful_of_masked (s := s.hearing ps) (r := ⟨.damp, _, { r.seq with disturbed := d }⟩) h.1
      (fun f hf => h.unmasked hopen hf) rfl rfl (.inr rfl) hw
  heard s r ps hrun hp _ h := by
    have hopen : ∀ r', s.engine.running = some r' → r'.phase = .settle ∨ r'.phase = .listen := fun r' hr' => by
      rw [hrun] at hr'; cases hr'; exact hp
    exact maskLawful_of_unmasked h.1 (fun f hf => h.unmasked hopen hf) nofun nofun
  damped s r foreign hrun hp h :=
    maskLawful_of_unmasked (by simpa using h.1) (fun f hf => (h.lifted hrun (.inr hp) foreign hf).1) nofun nofun
  rise s f hq h := setDetector_masks (by simp) (by rw [hq]; simp) h
  quiet s f hq h := setDetector_masks (by simp) (by rw [hq]; simp) h
  start s ph seq hidle hbegins h := by
    have hno : ∀ f, f < 4 → detectorAt f s ≠ .masked := fun f hf =>
      h.unmasked (fun r hr => by rw [hidle] at hr; cases hr) hf
    rcases hbegins with ⟨rfl, hw⟩ | ⟨hp, hw, hloops⟩
    · exact maskLawful_of_masked h.1 hno rfl rfl (.inl rfl) hw
    · have hph : ph ≠ .drive := by rcases hp with rfl | rfl <;> simp
      have hdet : (startSequence ph seq s).detectors = s.detectors := by
        unfold startSequence; simp only [if_neg hph]; rfl
      have hrun := startSequence_running ph seq s
      refine maskLawful_of_unmasked (by rw [hdet]; exact h.1) (fun f hf => ?_) (fun r hr => ?_) fun r hr _ => ?_
      · unfold detectorAt; rw [hdet]; exact hno f hf
      · rw [hrun] at hr; cases hr; exact hp
      · rw [hrun] at hr; cases hr; exact hloops
  floors _ _ _ _ _ _ _ := id

/-- Settles O56: the mask goes up and down with the phase, in each of the engine's meanings. -/
theorem stepsKeepTheMasks : Obligations.StepsKeepTheMasks := by
  intro s t hs ht
  exact masksLaw.step hs ht

end Sys2Proof.Machine
end

section
/-! PROOFS. Every step keeps sums and baseline values within their bounds (O57; R24, R40, R41). -/

namespace Sys2Proof.Machine

/-! ### Sums -/

/-- The sums of every path lie within ±n (R24). -/
def SumsWithin (n : Nat) (ps : List Path) : Prop := ∀ p ∈ ps, p.i.natAbs ≤ n ∧ p.q.natAbs ≤ n

/-- One period adds at most 4095 to each sum (R24). -/
theorem addQuad_within {n : Nat} {p : Path} (v : Quad) (h : p.i.natAbs ≤ n ∧ p.q.natAbs ≤ n) :
    (addQuad p v).i.natAbs ≤ n + 4095 ∧ (addQuad p v).q.natAbs ≤ n + 4095 := by
  have hsample : ∀ x : Sample, -2048 ≤ x.toInt ∧ x.toInt ≤ 2047 := fun x => by
    have h1 := x.le_toInt
    have h2 := x.toInt_lt
    norm_num at h1 h2
    omega
  have h0 := hsample v.s0
  have h1 := hsample v.s1
  have h2 := hsample v.s2
  have h3 := hsample v.s3
  unfold addQuad
  constructor <;> simp only <;> omega

theorem addPeriod_length : ∀ (ps : List Path) (v : Period), (addPeriod ps v).length = ps.length
  | [], v => by cases v <;> rfl
  | _ :: _, [] => rfl
  | p :: ps, x :: v => by simp [addPeriod, addPeriod_length ps v]

theorem addPeriod_within {n : Nat} : ∀ (ps : List Path) (v : Period), SumsWithin n ps → SumsWithin (n + 4095) (addPeriod ps v)
  | [], v, _ => by cases v <;> exact nofun
  | p :: ps, [], h => fun q hq => by
    have := h q hq
    omega
  | p :: ps, x :: v, h => fun q hq => by
    rcases List.mem_cons.1 hq with rfl | hq
    · exact addQuad_within x (h p (List.mem_cons_self ..))
    · exact addPeriod_within ps v (fun r hr => h r (List.mem_cons_of_mem _ hr)) q hq

/-- The sums after some periods (R24). -/
theorem listenSums_within : ∀ (periods : List Period) {n : Nat} {ps : List Path}, SumsWithin n ps →
    (listenSums ps periods).length = ps.length ∧ SumsWithin (n + 4095 * periods.length) (listenSums ps periods)
  | [], _, _, h => ⟨rfl, h⟩
  | v :: periods, n, ps, h => by
    obtain ⟨hlen, hwithin⟩ := listenSums_within periods (addPeriod_within ps v h)
    have hn : n + 4095 * (v :: periods).length = n + 4095 + 4095 * periods.length := by
      rw [List.length_cons]; omega
    exact ⟨hlen.trans (addPeriod_length ps v), hn ▸ hwithin⟩

/-- A cut period marks paths and leaves their sums (R25). -/
theorem markPaths_within {n : Nat} : ∀ (ps : List Path) (cut : List (List Sample)), SumsWithin n ps →
    (markPaths ps cut).length = ps.length ∧ SumsWithin n (markPaths ps cut)
  | [], cut, _ => by cases cut <;> exact ⟨rfl, nofun⟩
  | p :: ps, [], h => ⟨rfl, h⟩
  | p :: ps, x :: cut, h => by
    obtain ⟨hlen, hwithin⟩ := markPaths_within ps cut fun r hr => h r (List.mem_cons_of_mem _ hr)
    refine ⟨by simp [markPaths, hlen], fun q hq => ?_⟩
    rcases List.mem_cons.1 hq with rfl | hq
    · exact h p (List.mem_cons_self ..)
    · exact hwithin q hq

/-- After reset and at a sequence's start: sixteen paths with sums 0 (R24, R38). -/
theorem atReset_paths : Engine.atReset.paths.length = 16 ∧ SumsWithin 0 Engine.atReset.paths :=
  ⟨List.length_replicate, fun p hp => by rw [List.eq_of_mem_replicate hp]; exact ⟨le_rfl, le_rfl⟩⟩

/-- What L periods at most leave in paths that held nothing (R24). -/
theorem Heard.within {s : State} {ps : List Path} (h : Heard s ps) (hl : s.settings.listenLength ≤ 32)
    (h0 : s.engine.paths = Engine.atReset.paths) : ps.length = 16 ∧ SumsWithin 131040 ps := by
  obtain ⟨periods, cut, rfl⟩ := h
  rw [h0]
  obtain ⟨hlen, hwithin⟩ := listenSums_within (periods.take s.settings.listenLength) atReset_paths.2
  obtain ⟨hlen', hwithin'⟩ := markPaths_within _ cut hwithin
  have htake : (periods.take s.settings.listenLength).length ≤ 32 := by rw [List.length_take]; omega
  refine ⟨(hlen'.trans hlen).trans atReset_paths.1, fun p hp => ?_⟩
  have := hwithin' p hp
  omega

/-! ### Magnitudes and floors -/

/-- A magnitude is at most 180180 (R40). -/
theorem magnitude_le {p : Path} (h : p.i.natAbs ≤ 131040 ∧ p.q.natAbs ≤ 131040) : magnitude p ≤ 180180 := by
  unfold magnitude
  omega

theorem pathMagnitude_le {s : State} (h : SumsWithin 131040 s.engine.paths) (j : Nat) : pathMagnitude s j ≤ 180180 := by
  unfold pathMagnitude
  split
  · rename_i p hp
    exact magnitude_le (h p (List.mem_of_getElem? hp))
  · exact Nat.zero_le _

/-- A refresh moves a floor toward the magnitude heard (R47). -/
theorem refreshFloor_le {m : Nat} {fl : Floor} (now : Nat) (hm : m ≤ 180180) (h : fl.value ≤ 180180) :
    (refreshFloor now m fl).value ≤ 180180 := by
  have hquarter : ((m : Int) - fl.value).tdiv 4 ≤ max 0 ((m : Int) - fl.value) := by
    rcases le_total (fl.value : Int) m with hle | hle
    · rw [Int.tdiv_eq_ediv_of_nonneg (by omega)]; omega
    · have hneg : ((m : Int) - fl.value).tdiv 4 = -((fl.value : Int) - m).tdiv 4 := by
        rw [← Int.neg_tdiv, neg_sub]
      rw [hneg, Int.tdiv_eq_ediv_of_nonneg (by omega)]; omega
  unfold refreshFloor truncDiv
  simp only [Int.ofNat_eq_natCast]
  omega

/-- The sweep writes a magnitude, or the mean of two (R50). -/
theorem sweepFloor_le {m : Nat} {fl : Floor} (pass now : Nat) (hm : m ≤ 180180) (h : fl.value ≤ 180180) :
    (sweepFloor pass now m fl).value ≤ 180180 := by
  unfold sweepFloor
  have hmean : (fl.value + m) / 2 ≤ 180180 := by omega
  split_ifs <;> assumption

/-- A slot's writing keeps a bound that each write keeps (R47). -/
theorem writeSlot_le {s : State} {w : Nat → Floor → Floor} {slot n : Nat}
    (hw : ∀ j fl, fl.value ≤ n → (w (pathMagnitude s j) fl).value ≤ n) (h : ∀ fl ∈ s.baseline.table, fl.value ≤ n) :
    ∀ fl ∈ writeSlot w slot s, fl.value ≤ n := by
  have hone : ∀ (t : List Floor) j, (∀ fl ∈ t, fl.value ≤ n) → ∀ fl ∈ writeFloor w s slot t j, fl.value ≤ n := by
    intro t j ht fl hfl
    obtain ⟨i, hi⟩ := List.mem_iff_getElem?.1 hfl
    rw [writeFloor_get] at hi
    split at hi
    · obtain ⟨old, hold, rfl⟩ := Option.map_eq_some_iff.1 hi
      exact hw j old (ht old (List.mem_of_getElem? hold))
    · exact ht fl (List.mem_of_getElem? hi)
  have hall : ∀ (l : List Nat) (t : List Floor), (∀ fl ∈ t, fl.value ≤ n) →
      ∀ fl ∈ l.foldl (writeFloor w s slot) t, fl.value ≤ n := by
    intro l
    induction l with
    | nil => exact fun _ => id
    | cons j l ih => exact fun t ht => ih _ (hone t j ht)
  exact hall _ _ h

/-! ### The law -/

theorem readingsLaw : EngineLaw ReadingsLawful where
  kept s t hk h := by
    obtain ⟨hl, h16, hsums, hclear, hfloors⟩ := h
    refine ⟨by rw [hk.settings]; exact hl, by rw [hk.paths]; exact h16, by rw [hk.paths]; exact hsums, fun r hr hp => ?_,
      by rw [hk.table]; exact hfloors⟩
    rw [hk.paths]
    rcases hk.running with hrun | ⟨r', hr', hrun⟩
    · exact hclear r (hrun ▸ hr) hp
    · rw [hrun] at hr; cases hr; exact hclear r' hr' hp
  reset s ends _ := by
    refine ⟨Nat.le_of_ble_eq_true rfl, atReset_paths.1, fun p hp => ?_, nofun, fun fl hfl => ?_⟩
    · have := atReset_paths.2 p hp; omega
    · rw [List.eq_of_mem_replicate hfl]; exact Nat.zero_le _
  image s o h := by
    obtain ⟨_, hrest⟩ := h
    unfold loadImage
    split
    · refine ⟨?_, hrest⟩
      simp only [settingsOf, listenOf]
      split_ifs <;> omega
    · exact ⟨Nat.le_of_ble_eq_true rfl, hrest⟩
  settle s r foreign hrun hp h := by
    obtain ⟨hl, h16, hsums, hclear, hfloors⟩ := h
    exact ⟨hl, h16, hsums, fun _ _ _ => hclear r hrun (by rw [hp]; nofun), hfloors⟩
  listen s r hrun hp h := by
    obtain ⟨hl, h16, hsums, hclear, hfloors⟩ := h
    exact ⟨hl, h16, hsums, fun _ _ _ => hclear r hrun (by rw [hp]; nofun), hfloors⟩
  damp s r d ps hrun hp _ hps h := by
    obtain ⟨hl, _, _, hclear, hfloors⟩ := h
    obtain ⟨h16, hsums⟩ := hps.within hl (hclear r hrun (by rcases hp with hp | hp <;> rw [hp] <;> nofun))
    exact ⟨hl, h16, hsums, fun r' hr' hp' => by cases hr'; exact absurd rfl hp', hfloors⟩
  heard s r ps hrun hp hps h := by
    obtain ⟨hl, _, _, hclear, hfloors⟩ := h
    obtain ⟨h16, hsums⟩ := hps.within hl (hclear r hrun (by rcases hp with hp | hp <;> rw [hp] <;> nofun))
    exact ⟨hl, h16, hsums, nofun, hfloors⟩
  damped s r foreign _ _ h := by
    obtain ⟨hl, h16, hsums, _, hfloors⟩ := h
    exact ⟨hl, h16, hsums, nofun, hfloors⟩
  rise _ _ _ := id
  quiet _ _ _ := id
  start s ph seq _ _ h := by
    obtain ⟨hl, _, _, _, hfloors⟩ := h
    refine ⟨by simpa using hl, by simpa using atReset_paths.1, fun p hp => ?_, fun _ _ _ => by simp, by simpa using hfloors⟩
    have := atReset_paths.2 p (by simpa using hp)
    omega
  floors s slot w b hw ht _ h := by
    obtain ⟨hl, h16, hsums, hclear, hfloors⟩ := h
    have hheard := pathMagnitude_le hsums
    refine ⟨hl, h16, hsums, hclear, ?_⟩
    rw [show ({ s with baseline := b } : State).baseline.table = writeSlot w slot s from ht]
    refine writeSlot_le (fun j fl hfl => ?_) hfloors
    rcases hw with rfl | ⟨pass, rfl⟩
    · exact refreshFloor_le _ (hheard j) hfl
    · exact sweepFloor_le _ _ (hheard j) hfl

/-- Settles O57: the paths hold nothing until a listen of at most 32 periods is over, and floors stay between magnitudes. -/
theorem stepsKeepTheReadings : Obligations.StepsKeepTheReadings := by
  intro s t hs ht
  exact readingsLaw.step hs ht

end Sys2Proof.Machine
end

section
/-! PROOFS. The order the tracker keeps: channels, seek scheduler, cycles and the work asked of the engine (R32, R34, R95 to R110). -/

namespace Sys2Proof.Machine

/-! ### The work a channel calls for and has asked for -/

/-- The work a channel's own records call for: the phase of its cycle in HOLD, a seek in SEEK (R34, R96, R115, R116). -/
def Channel.called (ch : Channel) : Option Work :=
  match ch.state, ch.current with
  | .seek, _ => some .seek
  | .hold, some cy =>
      match cy.phase with
      | .tip => some .tip
      | .collar => some .collar
      | _ => none
  | _, _ => none

/-- The pass in progress is the channel's (R96). -/
def PassOf (s : State) (c : Chan) : Prop := ∃ p, s.seek.pass = some p ∧ p.ch = c

/-- A channel calls for its records' work; a seek needs the pass too (R34). -/
theorem callsFor_iff (s : State) (c : Chan) (w : Work) :
    CallsFor s c w ↔ (s.chan c).called = some w ∧ (w = .seek → PassOf s c) := by
  unfold Channel.called Channel.current
  cases hst : (s.chan c).state with
  | hold =>
    cases hcs : (s.chan c).cycles with
    | none => cases w <;> simp [CallsFor, hst, hcs]
    | some cs =>
      cases hcy : cs.current with
      | none => cases w <;> simp [CallsFor, hst, hcs, hcy]
      | some cy => cases hp : cy.phase <;> cases w <;> simp [CallsFor, hst, hcs, hcy, hp]
  | seek => cases w <;> simp [CallsFor, hst, PassOf]
  | _ => cases w <;> simp [CallsFor, hst]

/-- A request of a channel's work waits (R32). -/
def Waits (s : State) (c : Chan) (w : Work) : Prop := ∃ q ∈ s.queue, q.ch = c ∧ q.ask.work = w

/-- A channel's work is in progress and not abandoned (R26, R32). -/
def Runs (s : State) (c : Chan) (w : Work) : Prop :=
  ∃ r, s.engine.running = some r ∧ r.seq.job.work = some (c, w) ∧ r.seq.abandoned = false

/-- Nothing is asked of the engine, and nothing runs, for a channel's work. -/
def Unasked (s : State) (c : Chan) (w : Work) : Prop := ¬ Waits s c w ∧ ¬ Runs s c w

/-- A marked tracking sequence of the channel runs, to whose end an abandoned cycle lives (R120). -/
def RunsAbandoned (s : State) (c : Chan) : Prop :=
  ∃ r, s.engine.running = some r ∧ r.seq.job.tracks c = true ∧ r.seq.abandoned = true

/-- What a state asks of the engine is no more than another asks. -/
structure AsksLess (t s : State) : Prop where
  queue : t.queue.Sublist s.queue
  runs : ∀ c w, Runs t c w → Runs s c w
  runsAbandoned : ∀ c, RunsAbandoned s c → RunsAbandoned t c

namespace AsksLess

/-- Fewer requests, and the sequence in progress the same or marked. -/
theorem of_marked {s t : State} (hq : t.queue.Sublist s.queue) (hrun : Marked s.engine.running t.engine.running) :
    AsksLess t s := by
  refine ⟨hq, fun c w ⟨r, hr, hw, hab⟩ => ?_, fun c ⟨r, hr, htracks, hab⟩ => ?_⟩
  · rcases hrun with hrun | ⟨r', _, hrun⟩ <;> rw [hrun] at hr
    · exact ⟨r, hr, hw, hab⟩
    · cases hr; cases hab
  · rcases hrun with hrun | ⟨r', hr', hrun⟩
    · exact ⟨r, by rw [hrun, hr], htracks, hab⟩
    · rw [hr'] at hr; cases hr
      exact ⟨_, hrun, htracks, rfl⟩

/-- A sequence in progress for the same job, abandoned or not as before. -/
theorem of_same_job {s t : State} {r r' : Running} (hq : t.queue = s.queue) (hr : s.engine.running = some r)
    (hr' : t.engine.running = some r') (hjob : r'.seq.job = r.seq.job) (hab : r'.seq.abandoned = r.seq.abandoned) :
    AsksLess t s := by
  refine ⟨by rw [hq], fun c w ⟨u, hu, hw, ha⟩ => ⟨r, hr, ?_, ?_⟩, fun c ⟨u, hu, hw, ha⟩ => ⟨r', hr', ?_, ?_⟩⟩
  · rw [hr'] at hu; cases hu; rw [← hjob]; exact hw
  · rw [hr'] at hu; cases hu; rw [← hab]; exact ha
  · rw [hr] at hu; cases hu; rw [hjob]; exact hw
  · rw [hr] at hu; cases hu; rw [hab]; exact ha

theorem refl (s : State) : AsksLess s s := of_marked (List.Sublist.refl _) (.inl rfl)

theorem trans {s t u : State} (h : AsksLess u t) (h' : AsksLess t s) : AsksLess u s :=
  ⟨h.queue.trans h'.queue, fun c w hu => h'.runs c w (h.runs c w hu),
    fun c hs => h.runsAbandoned c (h'.runsAbandoned c hs)⟩

theorem waits {s t : State} (h : AsksLess t s) {c : Chan} {w : Work} : Waits t c w → Waits s c w :=
  fun ⟨q, hq, hqc⟩ => ⟨q, h.queue.subset hq, hqc⟩

theorem unasked {s t : State} (h : AsksLess t s) {c : Chan} {w : Work} (hs : Unasked s c w) : Unasked t c w :=
  ⟨fun ht => hs.1 (h.waits ht), fun ht => hs.2 (h.runs c w ht)⟩

end AsksLess

/-! ### The order -/

/-- The laws of the tracker but for the dormant timer's start and for what a tile apart holds. -/
structure Orderly (s : State) : Prop where
  states : ∀ c, (s.chan c).state ≠ .absent ↔ s.tracking = true ∧ s.enabled c = true
  seek : SeekLawful s
  records : ∀ c, RecordsLawful (s.chan c)
  cycles : ∀ c, CycleLawful (s.chan c)
  abandoned : ∀ c, (s.chan c).abandoned.isSome = true → (s.chan c).current = none ∧ RunsAbandoned s c
  queue : QueueLawful s
  calls : ∀ c w, Unasked s c w ∨ CallsFor s c w
  once : ∀ c w, Waits s c w → ¬ Runs s c w
  dormant : s.dormant.isSome = true → s.mode = .active ∧ s.allSeek = true
  dormantMode : s.mode = .dormant → s.allSeek = true

/-- Every enabled channel seeks. -/
theorem allSeek_iff (s : State) : s.allSeek = true ↔ ∀ c, s.enabled c = true → (s.chan c).state = .seek := by
  have hall : ∀ P : Chan → Prop, (∀ c, P c) ↔ P .A ∧ P .B := fun P =>
    ⟨fun h => ⟨h .A, h .B⟩, fun h c => by cases c; exacts [h.1, h.2]⟩
  rw [hall]
  cases hB : s.settings.enableB <;> simp [State.allSeek, State.inSeek, State.enabled, hB]

theorem allSeek_congr {s t : State} (hset : t.settings = s.settings)
    (h : ∀ c, (t.chan c).state = .seek ↔ (s.chan c).state = .seek) : t.allSeek = s.allSeek := by
  have henabled : ∀ c, t.enabled c = s.enabled c := fun c => by cases c <;> simp [State.enabled, hset]
  rw [Bool.eq_iff_iff, allSeek_iff, allSeek_iff]
  simp only [henabled, h]

/-- Two states that agree in what the seek scheduler's laws speak of. -/
theorem SeekLawful.congr {s t : State} (hseek : t.seek = s.seek) (htracking : t.tracking = s.tracking)
    (hs : ∀ p, s.seek.pass = some p → t.seeks p.ch = s.seeks p.ch) (h : SeekLawful s) : SeekLawful t := by
  obtain ⟨hpass, htimer, hoff⟩ := h
  unfold SeekLawful
  rw [hseek, htracking]
  exact ⟨fun p hp => by rw [hs p hp]; exact hpass p hp, htimer, hoff⟩

namespace Orderly

variable {s : State} (h : Orderly s)
include h

/-- What a channel does not call for, it has not asked for. -/
theorem unasked {c : Chan} {w : Work} (hc : (s.chan c).called ≠ some w) : Unasked s c w :=
  (h.calls c w).resolve_right fun hcalls => hc ((callsFor_iff s c w).1 hcalls).1

/-- A seek is asked for by the channel of the pass alone. -/
theorem unasked_seek {c : Chan} (hc : ¬ PassOf s c) : Unasked s c .seek :=
  (h.calls c .seek).resolve_right fun hcalls => hc (((callsFor_iff s c .seek).1 hcalls).2 rfl)

/-- The channel of the pass is in SEEK (R96). -/
theorem seeking_of_pass {c : Chan} (hp : PassOf s c) : (s.chan c).state = .seek := by
  obtain ⟨p, hp, rfl⟩ := hp
  have hseeks := (h.seek.1 p hp).1
  simp only [State.seeks, State.inSeek, Bool.and_eq_true, beq_iff_eq] at hseeks
  exact hseeks.2

/-- A channel that works and does not seek is one of an ACTIVE tile (R94). -/
theorem active {c : Chan} (hst : (s.chan c).state ≠ .absent) (hseek : (s.chan c).state ≠ .seek) : s.mode = .active := by
  obtain ⟨htracking, henabled⟩ := (h.states c).1 hst
  have hmode : s.mode = .active ∨ s.mode = .dormant := by simpa [State.tracking] using htracking
  exact hmode.resolve_right fun hd => hseek ((allSeek_iff s).1 (h.dormantMode hd) c henabled)

/-- A state with the same channels, scheduler and mode, whose asks of the engine are called for. -/
theorem retask {t : State} (hchan : ∀ c, t.chan c = s.chan c) (hseek : t.seek = s.seek) (hmode : t.mode = s.mode)
    (hset : t.settings = s.settings) (hd : t.dormant = s.dormant ∨ t.dormant = none)
    (hab : ∀ c, (s.chan c).abandoned.isSome = true → RunsAbandoned s c → RunsAbandoned t c) (hq : QueueLawful t)
    (hcalls : ∀ c w, Unasked t c w ∨ CallsFor s c w) (honce : ∀ c w, Waits t c w → ¬ Runs t c w) : Orderly t := by
  have htracking : t.tracking = s.tracking := by unfold State.tracking; rw [hmode]
  have henabled : ∀ c, t.enabled c = s.enabled c := fun c => by cases c <;> simp [State.enabled, hset]
  have hall : t.allSeek = s.allSeek := allSeek_congr hset fun c => by rw [hchan]
  have hcallsFor : ∀ c w, CallsFor s c w → CallsFor t c w := fun c w hs => by
    rw [callsFor_iff] at hs ⊢
    rw [hchan]; unfold PassOf; rw [hseek]; exact hs
  refine ⟨fun c => by rw [hchan, htracking, henabled]; exact h.states c, ?_, fun c => by rw [hchan]; exact h.records c,
    fun c => by rw [hchan]; exact h.cycles c, fun c hc => ?_, hq, fun c w => (hcalls c w).imp_right (hcallsFor c w),
    honce, fun hs => ?_, fun hm => by rw [hall]; exact h.dormantMode (hmode ▸ hm)⟩
  · exact h.seek.congr hseek htracking fun p _ => by simp [State.seeks, henabled, State.inSeek, hchan]
  · rw [hchan] at hc ⊢
    exact (h.abandoned c hc).imp_right (hab c hc)
  · rcases hd with hd | hd <;> rw [hd] at hs
    · rw [hmode, hall]; exact h.dormant hs
    · cases hs

/-- A state with the same channels, scheduler and mode that asks no more of the engine. -/
theorem less {t : State} (hless : AsksLess t s) (hchan : ∀ c, t.chan c = s.chan c) (hseek : t.seek = s.seek)
    (hmode : t.mode = s.mode) (hset : t.settings = s.settings) (hd : t.dormant = s.dormant ∨ t.dormant = none) :
    Orderly t :=
  h.retask hchan hseek hmode hset hd (fun c _ => hless.runsAbandoned c) (List.Pairwise.sublist hless.queue h.queue)
    (fun c w => (h.calls c w).imp_left hless.unasked) fun c w hw hr => h.once c w (hless.waits hw) (hless.runs c w hr)

/-- A channel's record replaced, and the dormant timer set by what then seeks. -/
theorem replace {c : Chan} {ch : Channel} {d : Option Nat} (habsent : ch.state = .absent ↔ (s.chan c).state = .absent)
    (hpass : PassOf s c → ch.state = .seek) (hrec : RecordsLawful ch) (hcyc : CycleLawful ch)
    (hab : ch.abandoned.isSome = true → ch.current = none ∧ RunsAbandoned s c)
    (hcalls : ∀ w, Unasked s c w ∨ ch.called = some w)
    (hd : d.isSome = true → s.mode = .active ∧ (s.setChan c ch).allSeek = true)
    (hmode : s.mode = .dormant → (s.setChan c ch).allSeek = true) : Orderly { s.setChan c ch with dormant := d } := by
  have hsame : (s.setChan c ch).chan c = ch := setChan_chan_same c ch s
  have hne : ∀ {e}, e ≠ c → (s.setChan c ch).chan e = s.chan e := fun he => setChan_chan_ne he ch s
  have hasks : ∀ e w, (Unasked (s.setChan c ch) e w ↔ Unasked s e w) ∧ (Waits (s.setChan c ch) e w ↔ Waits s e w) ∧
      (Runs (s.setChan c ch) e w ↔ Runs s e w) := fun e w => by
    simp only [Unasked, Waits, Runs, setChan_queue, setChan_engine, and_self]
  have henabled : ∀ e, (s.setChan c ch).enabled e = s.enabled e := fun e => by cases e <;> simp [State.enabled]
  have htracking : (s.setChan c ch).tracking = s.tracking := by simp [State.tracking]
  have hper : ∀ {P : Channel → Prop}, P ch → (∀ e, P (s.chan e)) → ∀ e, P ((s.setChan c ch).chan e) := fun hc hs e => by
    by_cases he : e = c
    · subst he; rw [hsame]; exact hc
    · rw [hne he]; exact hs e
  have hstates : ∀ e, ((s.setChan c ch).chan e).state ≠ .absent ↔
      (s.setChan c ch).tracking = true ∧ (s.setChan c ch).enabled e = true := fun e => by
    rw [htracking, henabled, ← h.states e]
    by_cases he : e = c
    · subst he; rw [hsame, not_iff_not]; exact habsent
    · rw [hne he]
  have hseek : SeekLawful (s.setChan c ch) := by
    obtain ⟨hlaw, htimer, hoff⟩ := h.seek
    unfold SeekLawful
    rw [setChan_seek, htracking]
    refine ⟨fun p hp => ⟨?_, (hlaw p hp).2⟩, htimer, hoff⟩
    have hseeks := (hlaw p hp).1
    unfold State.seeks State.inSeek at hseeks ⊢
    rw [henabled]
    by_cases he : p.ch = c
    · rw [he] at hseeks ⊢
      rw [hsame, hpass ⟨p, hp, he⟩]
      simp only [Bool.and_eq_true] at hseeks
      simp [hseeks.1]
    · rw [hne he]; exact hseeks
  have habandoned : ∀ e, ((s.setChan c ch).chan e).abandoned.isSome = true →
      ((s.setChan c ch).chan e).current = none ∧ RunsAbandoned (s.setChan c ch) e := fun e => by
    have hra : RunsAbandoned (s.setChan c ch) e ↔ RunsAbandoned s e := by simp [RunsAbandoned]
    rw [hra]
    by_cases he : e = c
    · subst he; rw [hsame]; exact hab
    · rw [hne he]; exact h.abandoned e
  have hcall : ∀ e w, Unasked (s.setChan c ch) e w ∨ CallsFor (s.setChan c ch) e w := fun e w => by
    have hpassOf : PassOf (s.setChan c ch) e ↔ PassOf s e := by simp [PassOf]
    rw [(hasks e w).1, callsFor_iff, hpassOf]
    by_cases he : e = c
    · subst he
      rw [hsame]
      rcases h.calls e w with hu | hs
      · exact .inl hu
      · exact (hcalls w).imp_right fun hw => ⟨hw, ((callsFor_iff s e w).1 hs).2⟩
    · rw [hne he, ← callsFor_iff]; exact h.calls e w
  have honce : ∀ e w, Waits (s.setChan c ch) e w → ¬ Runs (s.setChan c ch) e w := fun e w => by
    rw [(hasks e w).2.1, (hasks e w).2.2]; exact h.once e w
  refine ⟨hstates, hseek, hper hrec h.records, hper hcyc h.cycles, habandoned, ?_, hcall, honce, fun hs => ?_,
    fun hm => hmode (by rw [← hm]; exact (setChan_mode ..).symm)⟩
  · have hq := h.queue
    unfold QueueLawful at hq ⊢
    simpa using hq
  · rw [show ({ s.setChan c ch with dormant := d } : State).mode = s.mode from setChan_mode ..]; exact hd hs

/-- A channel's record replaced by one that seeks or not as before. -/
theorem setChan {c : Chan} {ch : Channel} (habsent : ch.state = .absent ↔ (s.chan c).state = .absent)
    (hseek : ch.state = .seek ↔ (s.chan c).state = .seek) (hrec : RecordsLawful ch) (hcyc : CycleLawful ch)
    (hab : ch.abandoned.isSome = true → ch.current = none ∧ RunsAbandoned s c)
    (hcalls : ∀ w, Unasked s c w ∨ ch.called = some w) : Orderly (s.setChan c ch) := by
  have hall : (s.setChan c ch).allSeek = s.allSeek := allSeek_congr (setChan_settings ..) fun d => by
    by_cases hd : d = c
    · rw [hd, setChan_chan_same, hseek]
    · rw [setChan_chan_ne hd]
  have hpass : PassOf s c → ch.state = .seek := fun hp => hseek.2 (h.seeking_of_pass hp)
  have hset : { s.setChan c ch with dormant := s.dormant } = s.setChan c ch := by cases c <;> rfl
  rw [← hset]
  exact h.replace habsent hpass hrec hcyc hab hcalls (by rw [hall]; exact h.dormant) (by rw [hall]; exact h.dormantMode)

/-- The seek scheduler's records changed, lawfully, while seeks are asked for by the pass alone. -/
theorem setSeek {k : Seek} (hlaw : SeekLawful { s with seek := k })
    (hpass : ∀ c, Unasked s c .seek ∨ ∃ p, k.pass = some p ∧ p.ch = c) : Orderly { s with seek := k } := by
  refine ⟨h.states, hlaw, h.records, h.cycles, h.abandoned, h.queue, fun c w => ?_, h.once, h.dormant, h.dormantMode⟩
  rcases h.calls c w with hu | hs
  · exact .inl hu
  · rw [callsFor_iff] at hs ⊢
    obtain ⟨hcalled, _⟩ := hs
    by_cases hw : w = .seek
    · subst hw
      exact (hpass c).imp_right fun hk => ⟨hcalled, fun _ => hk⟩
    · exact .inr ⟨hcalled, fun hw' => absurd hw' hw⟩

/-- The engine enters IDLE when no cycle lives on to the end of its sequence (R120). -/
theorem idle (hab : ∀ c, (s.chan c).abandoned = none) : Orderly (goIdle s) := by
  have hasks : ∀ c w, Unasked s c w → Unasked (goIdle s) c w := fun c w hs => ⟨hs.1, nofun⟩
  refine ⟨h.states, h.seek, h.records, h.cycles, fun c hc => ?_, h.queue, fun c w => (h.calls c w).imp_left (hasks c w), fun _ _ _ => nofun,
    h.dormant, h.dormantMode⟩
  rw [goIdle_chan, hab] at hc; cases hc

end Orderly

end Sys2Proof.Machine
end

section
/-! PROOFS. The tracker's moves between channel states, the passes and the start of cycles keep its order (R93 to R109, R112, R120). -/

namespace Sys2Proof.Machine

/-! ### Reactions -/

/-- The dormant timer runs in ACTIVE when every enabled channel seeks (R93). -/
def Rested (s : State) : Prop := s.mode = .active → s.allSeek = true → s.dormant.isSome = true

/-- A reaction in order: its request is work the channel calls for and has not asked for yet (R32, R34). -/
structure Answers (r : Reaction) : Prop where
  orderly : Orderly r.1
  called : ∀ q, r.2 = some q → CallsFor r.1 q.ch q.ask.work ∧ Unasked r.1 q.ch q.ask.work

/-- A reaction in order that leaves the dormant timer as it has to be. -/
structure Settled (r : Reaction) : Prop extends Answers r where
  rested : Rested r.1

theorem Orderly.answers {s : State} (h : Orderly s) : Answers (s, none) := ⟨h, nofun⟩

theorem Orderly.settled {s : State} (h : Orderly s) (hr : Rested s) : Settled (s, none) := ⟨h.answers, hr⟩

/-- A channel that does not seek keeps the tile from resting (R93). -/
theorem Orderly.rested_of_busy {s : State} (h : Orderly s) {c : Chan} (hst : (s.chan c).state ≠ .absent)
    (hseek : (s.chan c).state ≠ .seek) : Rested s := fun _ hall =>
  absurd ((allSeek_iff s).1 hall c ((h.states c).1 hst).2) hseek

theorem Rested.congr {s t : State} (h : Rested s) (hmode : t.mode = s.mode) (hset : t.settings = s.settings)
    (hseek : ∀ c, (t.chan c).state = .seek ↔ (s.chan c).state = .seek) (hd : t.dormant = s.dormant) : Rested t := by
  unfold Rested
  rw [hmode, allSeek_congr hset hseek, hd]
  exact h

/-- The dormant timer set by what seeks rests the tile (R93). -/
theorem rested_timeDormant (s : State) : Rested (timeDormant s) := fun _ hall => by
  have hall' : s.allSeek = true := hall
  simp [timeDormant, hall']

/-- What the tracker asks for, its channels and its scheduler unchanged. -/
theorem Orderly.same {s t : State} (h : Orderly s) (hq : t.queue = s.queue)
    (hrun : t.engine.running = s.engine.running) (hchan : ∀ c, t.chan c = s.chan c) (hseek : t.seek = s.seek)
    (hmode : t.mode = s.mode) (hset : t.settings = s.settings) (hd : t.dormant = s.dormant) : Orderly t :=
  h.less (.of_marked (by rw [hq]) (.inl hrun)) hchan hseek hmode hset (.inl hd)

theorem Orderly.queueFrame {s : State} (h : Orderly s) (f : Frame) : Orderly (queueFrame f s) :=
  h.same rfl rfl (fun _ => rfl) rfl rfl rfl rfl

/-! ### A channel's records -/

/-- A channel without pen record, cycle state and cycle record (R58, R73, R110). -/
def Channel.Bare (ch : Channel) : Prop := ch.pen = none ∧ ch.cycles = none ∧ ch.record = none

theorem Channel.Bare.current {ch : Channel} (h : ch.Bare) : ch.current = none := by simp [Channel.current, h.2.1]

theorem Channel.Bare.cycleLawful {ch : Channel} (h : ch.Bare) : CycleLawful ch := fun _ _ hcs => by
  rw [h.2.1] at hcs; cases hcs

/-- Outside HOLD and YIELD the records are lawful when there are none. -/
theorem recordsLawful_iff_bare {ch : Channel} (h : ch.state.unheld ∨ ch.state = .absent) : RecordsLawful ch ↔ ch.Bare := by
  unfold RecordsLawful Channel.Bare
  rcases h with ⟨_, hhold, hyield⟩ | h
  · cases hst : ch.state with
    | hold => exact absurd hst hhold
    | yield t => exact absurd hst (hyield t)
    | _ => exact Iff.rfl
  · rw [h]

/-- A cycle in progress that is not abandoned exists in HOLD alone (R110). -/
theorem RecordsLawful.hold_of_current {ch : Channel} {cy : Cycle} (h : RecordsLawful ch) (hcy : ch.current = some cy) :
    ch.state = .hold := by
  cases hst : ch.state with
  | hold => rfl
  | yield t =>
    unfold RecordsLawful at h; rw [hst] at h
    obtain ⟨_, _, _, hcur, _⟩ := h
    rw [hcur] at hcy; cases hcy
  | _ =>
    unfold RecordsLawful at h; rw [hst] at h
    obtain ⟨_, hcs, _⟩ := h
    rw [Channel.current, hcs] at hcy; cases hcy

/-- A cycle record exists in HOLD alone (R58). -/
theorem RecordsLawful.hold_of_record {ch : Channel} {r : CycleRecord} (h : RecordsLawful ch) (hr : ch.record = some r) :
    ch.state = .hold := by
  cases hst : ch.state with
  | hold => rfl
  | yield t =>
    unfold RecordsLawful at h; rw [hst] at h
    obtain ⟨_, _, _, _, hrec⟩ := h
    rw [hrec] at hr; cases hr
  | _ =>
    unfold RecordsLawful at h; rw [hst] at h
    obtain ⟨_, _, hrec⟩ := h
    rw [hrec] at hr; cases hr

/-- Pen record and cycle state exist in HOLD, and no arming record. -/
theorem recordsLawful_hold {ch : Channel} (hst : ch.state = .hold) :
    RecordsLawful ch ↔ ch.pen.isSome = true ∧ ch.cycles.isSome = true ∧ ch.arming = none := by
  unfold RecordsLawful; rw [hst]

theorem called_of_bare {ch : Channel} (h : ch.Bare) (hseek : ch.state ≠ .seek) : ch.called = none := by
  unfold Channel.called
  rw [h.current]
  split <;> simp_all

theorem called_of_no_cycle {ch : Channel} (h : ch.current = none) (hseek : ch.state ≠ .seek) : ch.called = none := by
  unfold Channel.called
  rw [h]
  split <;> simp_all

/-! ### Work given up -/

/-- Requests withdrawn and the sequence in progress marked: the work is not asked for any more (R26, R32). -/
theorem unasked_calledOff {wq : Request → Bool} {wj : Job → Bool} {c : Chan} {w : Work} (s : State)
    (hq : ∀ q : Request, q.ch = c → q.ask.work = w → wq q = true) (hj : ∀ j : Job, j.work = some (c, w) → wj j = true) :
    Unasked (abandonRunning wj (withdraw wq s)) c w := by
  refine ⟨fun ⟨q, hmem, hc, hw⟩ => ?_, fun ⟨r, hr, hwork, hab⟩ => ?_⟩
  · rw [abandonRunning_queue, withdraw_queue, List.mem_filter] at hmem
    obtain ⟨_, hkept⟩ := hmem
    rw [hq q hc hw] at hkept; cases hkept
  · rw [abandonRunning_eq, withdraw_engine] at hr
    obtain ⟨r₀, _, hr₀⟩ := Option.map_eq_some_iff.1 hr
    by_cases hmark : wj r₀.seq.job = true
    · rw [if_pos hmark] at hr₀; subst hr₀; cases hab
    · rw [if_neg hmark] at hr₀; subst hr₀
      exact hmark (hj _ hwork)

/-- Withdrawing and marking asks no more. -/
theorem asksLess_calledOff (wq : Request → Bool) (wj : Job → Bool) (s : State) :
    AsksLess (abandonRunning wj (withdraw wq s)) s :=
  .of_marked (by rw [abandonRunning_queue, withdraw_queue]; exact List.filter_sublist)
    ((withdraw_steady wq s).trans (abandonRunning_steady wj _)).running

theorem Orderly.calledOff {s : State} (h : Orderly s) (wq : Request → Bool) (wj : Job → Bool) :
    Orderly (abandonRunning wj (withdraw wq s)) :=
  h.less (asksLess_calledOff wq wj s) (fun c => by simp) (by simp) (by simp) (by simp) (.inl (by simp))

/-! ### Passes (R96 to R102) -/

/-- Seeks are asked for by the channel of the pass alone. -/
theorem Orderly.seek_of_pass {s : State} (h : Orderly s) (c : Chan) : Unasked s c .seek ∨ PassOf s c := by
  by_cases hp : PassOf s c
  · exact .inr hp
  · exact .inl (h.unasked_seek hp)

/-- A pass means that the tile tracks (R109). -/
theorem Orderly.tracking_of_pass {s : State} (h : Orderly s) {c : Chan} (hp : PassOf s c) : s.tracking = true := by
  have hst : (s.chan c).state ≠ .absent := by rw [h.seeking_of_pass hp]; nofun
  exact ((h.states c).1 hst).1

/-- A pass begins for a channel in SEEK when both seek timers are stopped (R96). -/
theorem Orderly.beginPass {s : State} (h : Orderly s) (ht : s.seek.timer = none) (hb : s.seek.backoff = none) :
    Answers (beginPass s) := by
  unfold Machine.beginPass
  split
  · rename_i c hpass hc
    have hseeks : s.seeks c = true := by
      unfold passChannel at hc
      split at hc
      · cases hc; assumption
      · split at hc
        · cases hc; assumption
        · cases hc
    obtain ⟨henabled, hin⟩ : s.enabled c = true ∧ (s.chan c).state = .seek := by
      simpa [State.seeks, State.inSeek] using hseeks
    have htracking : s.tracking = true := ((h.states c).1 (by rw [hin]; nofun)).1
    have hnone : ∀ d, Unasked s d .seek := fun d => h.unasked_seek fun ⟨p, hp, _⟩ => by rw [hpass] at hp; cases hp
    refine ⟨h.setSeek ⟨fun p hp => ?_, fun _ => hb, fun hoff => ?_⟩ fun d => .inl (hnone d), fun q hq => ?_⟩
    · cases hp; exact ⟨hseeks, ht, hb⟩
    · cases htracking.symm.trans hoff
    · cases hq
      exact ⟨⟨hin, _, rfl, rfl⟩, hnone c⟩
  · exact h.answers

/-- The pass goes on to another stage of its channel, and asks for it (R97, R98). -/
theorem Orderly.nextStage {s : State} (h : Orderly s) {c : Chan} (hp : PassOf s c) (hun : Unasked s c .seek)
    {stage : Stage} {a : Ask} (ha : a.work = .seek) :
    Answers ({ s with seek := { s.seek with pass := some { ch := c, stage := stage } } }, some { ch := c, ask := a }) := by
  obtain ⟨p, hpass, rfl⟩ := hp
  obtain ⟨hlaw, htimer, hoff⟩ := h.seek
  refine ⟨h.setSeek ⟨fun p' hp' => ?_, htimer, fun ht => ?_⟩ fun d => ?_, fun q hq => ?_⟩
  · cases hp'; exact hlaw p hpass
  · have hnone := (hoff ht).1
    rw [hpass] at hnone; cases hnone
  · by_cases hd : p.ch = d
    · exact .inr ⟨_, rfl, hd⟩
    · refine .inl (h.unasked_seek fun ⟨p', hp', he⟩ => hd ?_)
      rw [hpass] at hp'; cases hp'; exact he
  · cases hq
    rw [ha]
    exact ⟨⟨h.seeking_of_pass ⟨p, hpass, rfl⟩, _, rfl, rfl⟩, hun⟩

/-- A pass ends, its seek not asked for any more, and one of the two timers starts (R99, R100). -/
theorem Orderly.dropPass {s : State} (h : Orderly s) {c : Chan} (hp : PassOf s c) (hun : Unasked s c .seek) {k : Seek}
    (hk : k.pass = none) (hone : k.timer = none ∨ k.backoff = none) : Orderly { s with seek := k } := by
  have htracking := h.tracking_of_pass hp
  refine h.setSeek ⟨fun p' hp' => ?_, fun ht => hone.resolve_left fun hnone => ?_, fun hoff => ?_⟩ fun d => .inl ?_
  · cases hk.symm.trans hp'
  · rw [show ({ s with seek := k } : State).seek.timer = none from hnone] at ht; cases ht
  · cases htracking.symm.trans hoff
  · by_cases hd : d = c
    · subst hd; exact hun
    · obtain ⟨p, hpass, hpc⟩ := hp
      refine h.unasked_seek fun ⟨p', hp', he⟩ => hd ?_
      rw [hpass] at hp'; cases hp'; rw [← he, hpc]

/-- No seek timer runs during a pass (R96). -/
theorem Orderly.timers_of_pass {s : State} (h : Orderly s) {c : Chan} (hp : PassOf s c) :
    s.seek.timer = none ∧ s.seek.backoff = none := by
  obtain ⟨p, hp, _⟩ := hp
  exact (h.seek.1 p hp).2

theorem Orderly.endPass {s : State} (h : Orderly s) {c : Chan} (hp : PassOf s c) (hun : Unasked s c .seek) :
    Orderly (endPass s) := h.dropPass hp hun rfl (.inr (h.timers_of_pass hp).2)

theorem Orderly.backOff {s : State} (h : Orderly s) {c : Chan} (hp : PassOf s c) (hun : Unasked s c .seek) :
    Orderly (backOff s) := h.dropPass hp hun rfl (.inl (h.timers_of_pass hp).1)

/-- A pass of the channel that is given up leaves order (R102). -/
theorem Orderly.abandonPass {s : State} (h : Orderly s) (c : Chan) :
    Orderly (abandonPass c s) ∧ ¬ PassOf (abandonPass c s) c := by
  unfold Machine.abandonPass
  split
  · rename_i p hp
    split
    · rename_i hc
      refine ⟨(h.calledOff _ _).endPass (c := c) ⟨p, by simpa using hp, hc⟩ (unasked_calledOff s (fun q hq hw => ?_) fun j hj => ?_),
        fun ⟨_, hnone, _⟩ => by cases hnone⟩
      · simp [Request.seeksFor, hq, tracks_eq, hw]
      · cases j <;> simp_all [Job.work, Job.seeks]
    · rename_i hc
      refine ⟨h, fun ⟨p', hp', he⟩ => hc ?_⟩
      rw [hp] at hp'; cases hp'; exact he
  · rename_i hp
    exact ⟨h, fun ⟨p', hp', _⟩ => by rw [hp] at hp'; cases hp'⟩

/-! ### Moves (R93, R95, R102, R120) -/

/-- A channel of an ACTIVE tile that has asked for nothing enters a state without records. -/
theorem Orderly.enter {s : State} (h : Orderly s) {c : Chan} {ch : Channel} {d : Option Nat}
    (hst : (s.chan c).state ≠ .absent) (hm : s.mode = .active) (hun : ch.state.unheld) (hbare : ch.Bare)
    (hab : ch.abandoned.isSome = true → RunsAbandoned s c) (hnone : ∀ w, Unasked s c w) (hpass : ¬ PassOf s c)
    (hd : d.isSome = true → (s.setChan c ch).allSeek = true) : Orderly { s.setChan c ch with dormant := d } :=
  h.replace (iff_of_false hun.1 hst) (fun hp => absurd hp hpass) ((recordsLawful_iff_bare (.inl hun)).2 hbare)
    hbare.cycleLawful (fun ha => ⟨hbare.current, hab ha⟩) (fun w => .inl (hnone w)) (fun hs => ⟨hm, hd hs⟩)
    (fun hd => by rw [hm] at hd; cases hd)

/-- A released channel has an abandoned cycle when it had one, or when a tracking sequence of its runs (R120). -/
theorem released_abandoned {c : Chan} {st : ChanState} {s : State}
    (h : ((s.released c st).chan c).abandoned.isSome = true) :
    (s.chan c).abandoned.isSome = true ∨ ∃ r, s.engine.running = some r ∧ r.seq.job.tracks c = true := by
  unfold State.released at h
  rw [setChan_chan_same] at h
  simp only at h
  split at h
  · split at h
    · rename_i hrun
      exact .inr (by simpa [Option.any_eq_true] using hrun)
    · exact .inl h
  · exact .inl h

/-- A channel leaves HOLD or YIELD of an ACTIVE tile, its cycle abandoned (R120). -/
theorem Orderly.release {s : State} (h : Orderly s) {c : Chan} {st : ChanState} (hheld : s.holding c = true)
    (hst : (s.chan c).state ≠ .absent) (hm : s.mode = .active) (hun : st.unheld) : Orderly (s.released c st) := by
  have hseek : (s.chan c).state ≠ .seek := fun hs => by simp [State.holding, hs] at hheld
  have hpass : ¬ PassOf s c := fun hp => hseek (h.seeking_of_pass hp)
  have hless := asksLess_calledOff (Request.tracksFor c) (Job.tracks c) s
  have heq : s.released c st = { (abandonRunning (Job.tracks c) (withdraw (Request.tracksFor c) s)).setChan c
      ((s.released c st).chan c) with dormant := none } := by
    rw [abandonRunning_eq]; cases c <;> rfl
  rw [heq]
  refine (h.calledOff _ _).enter (by simpa using hst) (by simpa using hm) ?_ ?_ (fun hab => ?_) (fun w => ?_) ?_ nofun
  · rw [(released_chan c st s).1]; exact hun
  · cases c <;> exact ⟨rfl, rfl, rfl⟩
  · rcases released_abandoned hab with hold | ⟨r, hr, htracks⟩
    · exact hless.runsAbandoned c (h.abandoned c hold).2
    · refine ⟨{ r with seq := { r.seq with abandoned := true } }, ?_, htracks, rfl⟩
      rw [abandonRunning_eq, withdraw_engine, hr]
      simp [htracks]
  · by_cases hw : w = .seek
    · subst hw; exact hless.unasked (h.unasked_seek hpass)
    · refine unasked_calledOff s (fun q hq hqw => ?_) fun j hj => ?_
      · simp [Request.tracksFor, hq, tracks_eq, hqw, hw]
      · cases j <;> simp_all [Job.work, Job.tracks]
  · simpa [PassOf] using hpass

/-- What giving up a pass leaves alone. -/
theorem abandonPass_frame (c : Chan) (s : State) :
    (∀ e, (abandonPass c s).chan e = s.chan e) ∧ (abandonPass c s).mode = s.mode := by
  unfold abandonPass
  split
  · split
    · exact ⟨fun e => by simp, by simp⟩
    · exact ⟨fun _ => rfl, rfl⟩
  · exact ⟨fun _ => rfl, rfl⟩

/-- A channel of an ACTIVE tile moves to DEFER, CLAIM or STANDBY (R95, R102, R120). -/
theorem Orderly.moveTo {s : State} (h : Orderly s) {c : Chan} {st : ChanState} (hst : (s.chan c).state ≠ .absent)
    (hm : s.mode = .active) (hun : st.unheld) : Orderly (moveTo c st s) := by
  by_cases hheld : s.holding c = true
  · rw [moveTo_eq_released c st s hheld]
    exact h.release hheld hst hm hun
  have hunheld : (s.chan c).state.unheld :=
    ⟨hst, fun hs => hheld (by simp [State.holding, hs]), fun t hs => hheld (by simp [State.holding, hs])⟩
  have hbare : (s.chan c).Bare := (recordsLawful_iff_bare (.inl hunheld)).1 (h.records c)
  by_cases hseek : (s.chan c).state = .seek
  · obtain ⟨hgone, hpass⟩ := h.abandonPass c
    obtain ⟨hchan, hmode⟩ := abandonPass_frame c s
    have heq : Machine.moveTo c st s =
        { (Machine.abandonPass c s).setChan c { s.chan c with state := st } with dormant := none } := by
      rw [← hchan c]
      unfold Machine.moveTo leaveState
      rw [hseek]; rfl
    rw [heq]
    refine hgone.enter (by rw [hchan]; exact hst) (by rw [hmode]; exact hm) hun hbare
      (fun ha => (hgone.abandoned c (by rw [hchan]; exact ha)).2) (fun w => ?_) hpass nofun
    by_cases hw : w = .seek
    · subst hw; exact hgone.unasked_seek hpass
    · refine hgone.unasked ?_
      rw [hchan, Channel.called, hseek]
      simpa using fun heq => hw heq.symm
  · have heq : Machine.moveTo c st s = { s.setChan c { s.chan c with state := st } with dormant := none } := by
      rw [moveTo_eq_moved c st s hunheld, State.moved, if_neg hseek]; rfl
    rw [heq]
    exact h.enter hst hm hun hbare (fun ha => (h.abandoned c ha).2)
      (fun w => h.unasked (by rw [called_of_bare hbare hseek]; nofun))
      (fun hp => hseek (h.seeking_of_pass hp)) nofun

end Sys2Proof.Machine
end

section
/-! PROOFS. Seeking, holding and the tracking cycle keep the tracker's order (R93 to R137). -/

namespace Sys2Proof.Machine

/-! ### The dormant timer and the tile mode (R93, R94) -/

theorem Steady.active {s t : State} (h : Steady s t) (hm : s.mode = .active) : t.mode = .active := by
  rcases h.mode with hs | ⟨hd, _⟩
  · rw [hs, hm]
  · rw [hm] at hd; cases hd

theorem Orderly.timeDormant {s : State} (h : Orderly s) (hm : s.mode = .active) : Orderly (timeDormant s) := by
  refine ⟨h.states, h.seek, h.records, h.cycles, h.abandoned, h.queue, h.calls, h.once, fun hs => ⟨hm, ?_⟩, h.dormantMode⟩
  by_cases hall : s.allSeek = true
  · exact hall
  · simp [Machine.timeDormant, hall] at hs

theorem Answers.timeDormant {r : Reaction} (h : Answers r) (hm : r.1.mode = .active) : Settled (timeDormant r.1, r.2) :=
  ⟨⟨h.orderly.timeDormant hm, h.called⟩, rested_timeDormant r.1⟩

/-- What tracks is ACTIVE once woken (R94). -/
theorem wake_active {s : State} (h : s.tracking = true) : (wake s).mode = .active := by
  unfold wake
  split
  · rfl
  · rename_i hd
    have hmode : s.mode = .active ∨ s.mode = .dormant := by simpa [State.tracking] using h
    exact hmode.resolve_right hd

/-- Waking changes the mode and the seek timer alone (R94). -/
theorem Orderly.wake {s : State} (h : Orderly s) : Orderly (wake s) := by
  unfold Machine.wake
  split
  · rename_i hd
    have htracking : s.tracking = true := by simp [State.tracking, hd]
    have hdormant : s.dormant.isSome ≠ true := fun hs => by rw [(h.dormant hs).1] at hd; cases hd
    obtain ⟨hpass, htimer, _⟩ := h.seek
    refine ⟨fun c => ?_, ⟨fun p hp => ?_, fun ht => htimer ?_, nofun⟩, h.records, h.cycles, h.abandoned, h.queue, h.calls, h.once,
      fun hs => absurd hs hdormant, nofun⟩
    · have hstates := h.states c
      rw [htracking] at hstates; exact hstates
    · obtain ⟨hseeks, ht, hb⟩ := hpass p hp
      exact ⟨hseeks, by simp [ht], hb⟩
    · simpa using ht
  · exact h

/-! ### Entering SEEK and finding (R96 to R103) -/

theorem moveTo_chan_same (c : Chan) (st : ChanState) (s : State) : ((moveTo c st s).chan c).state = st := by
  unfold moveTo; cases c <;> rfl

/-- A channel of an ACTIVE tile enters SEEK (R93, R96). -/
theorem Orderly.enterSeek {s : State} (h : Orderly s) {c : Chan} (hst : (s.chan c).state ≠ .absent)
    (hm : s.mode = .active) : Settled (enterSeek c s) := by
  have hmoved : Orderly (Machine.timeDormant (Machine.moveTo c .seek s)) :=
    (h.moveTo (st := .seek) hst hm ⟨nofun, nofun, nofun⟩).timeDormant ((moveTo_steady c .seek s).active hm)
  have heq : Machine.timeDormant (setState c .seek (leaveState c s)) = Machine.timeDormant (Machine.moveTo c .seek s) := rfl
  have hrest : Rested (Machine.timeDormant (Machine.moveTo c .seek s)) := rested_timeDormant _
  unfold Machine.enterSeek
  simp only [heq]
  split
  · rename_i ht hb
    refine ⟨hmoved.beginPass ht hb, ?_⟩
    unfold Machine.beginPass
    split
    · exact hrest.congr rfl rfl (fun _ => Iff.rfl) rfl
    · exact hrest
  · exact hmoved.settled hrest

/-- A find (R94, R99, R103). -/
theorem Orderly.find {s : State} (h : Orderly s) {c : Chan} (strength x y : Nat) (hp : PassOf s c)
    (hun : Unasked s c .seek) : Settled (find c strength x y s, none) := by
  have hseek : (s.chan c).state = .seek := h.seeking_of_pass hp
  have hactive := wake_active (h.tracking_of_pass hp)
  have hpass : PassOf (Machine.wake s) c := by
    obtain ⟨p, hp, hpc⟩ := hp
    exact ⟨p, by unfold Machine.wake; split <;> exact hp, hpc⟩
  have hun' : Unasked (Machine.wake s) c .seek :=
    (AsksLess.of_marked (by simp) (.inl (by simp))).unasked hun
  have hfound := ((h.wake.endPass hpass hun').queueFrame (.sighting c strength x y)).moveTo (c := c)
    (st := .claim { strength := strength, coarseX := x, coarseY := y, best := none, timer := (Machine.wake s).now + usec 600 })
    (by simp [hseek]) (by simpa using hactive) ⟨nofun, nofun, nofun⟩
  exact hfound.settled (hfound.rested_of_busy (c := c) (by rw [moveTo_chan_same]; nofun) (by rw [moveTo_chan_same]; nofun))

/-- The next X group, or the end of the pass (R97). -/
theorem Orderly.nextGroup {s : State} (h : Orderly s) {c : Chan} (pos : Nat) (hp : PassOf s c) (hun : Unasked s c .seek)
    (hr : Rested s) : Settled (nextGroup c pos s) := by
  unfold Machine.nextGroup
  split
  · exact ⟨h.nextStage hp hun rfl, hr.congr rfl rfl (fun _ => Iff.rfl) rfl⟩
  · exact (h.endPass hp hun).settled (hr.congr rfl rfl (fun _ => Iff.rfl) rfl)

/-- A seek result, delivered to the pass that asked for it (R97, R98, R100). -/
theorem Orderly.seekResult {s : State} (h : Orderly s) {c : Chan} (seq : Sequence) (hun : Unasked s c .seek)
    (hr : Rested s) : Settled (seekResult c seq s) := by
  unfold Machine.seekResult
  split
  case h_2 => exact h.settled hr
  rename_i p hpass
  split
  · exact h.settled hr
  rename_i hpc
  have hp : PassOf s c := ⟨p, hpass, not_not.1 hpc⟩
  split
  · exact (h.backOff hp hun).settled (hr.congr rfl rfl (fun _ => Iff.rfl) rfl)
  split
  · unfold seekXResult
    simp only
    split
    · exact ⟨h.nextStage hp hun rfl, hr.congr rfl rfl (fun _ => Iff.rfl) rfl⟩
    · exact h.nextGroup _ hp hun hr
  · unfold seekYResult
    simp only
    split
    · exact h.find _ _ _ hp hun
    split
    · exact ⟨h.nextStage hp hun rfl, hr.congr rfl rfl (fun _ => Iff.rfl) rfl⟩
    · exact h.nextGroup _ hp hun hr

/-! ### A channel changed in its state -/

/-- A channel's record changed in what its state, cycle and calls do not speak of. -/
theorem Orderly.retouch {s : State} (h : Orderly s) {c : Chan} {ch : Channel} (hst : ch.state = (s.chan c).state)
    (hcur : ch.current = (s.chan c).current) (hab : ch.abandoned = (s.chan c).abandoned) (hrec : RecordsLawful ch)
    (hcyc : CycleLawful ch) : Orderly (s.setChan c ch) := by
  refine h.setChan (by rw [hst]) (by rw [hst]) hrec hcyc (by rw [hab, hcur]; exact h.abandoned c) fun w => ?_
  have hcalled : ch.called = (s.chan c).called := by unfold Channel.called; rw [hst, hcur]
  rw [hcalled]
  exact (h.calls c w).imp_right fun hc => ((callsFor_iff s c w).1 hc).1

/-- An arming record belongs to no held channel (R125). -/
theorem Orderly.setArming {s : State} (h : Orderly s) {c : Chan} {a : Option Arming}
    (ha : a = none ∨ s.holding c = false) : Orderly (setArming c a s) := by
  refine h.retouch (ch := { s.chan c with arming := a }) rfl rfl rfl ?_ (h.cycles c)
  have hrec := h.records c
  unfold State.holding at ha
  unfold RecordsLawful at hrec ⊢
  cases hst : (s.chan c).state with
  | hold =>
    rw [hst] at hrec ha
    obtain ⟨hpen, hcs, _⟩ := hrec
    exact ⟨hpen, hcs, ha.resolve_right nofun⟩
  | yield t =>
    rw [hst] at hrec ha
    obtain ⟨hpen, hcs, _, hcur, hr⟩ := hrec
    exact ⟨hpen, hcs, ha.resolve_right nofun, hcur, hr⟩
  | _ => rw [hst] at hrec; exact hrec

/-- A channel with an arming record holds no pen (R125). -/
theorem Orderly.not_holding_of_arming {s : State} (h : Orderly s) {c : Chan} {a : Arming}
    (ha : (s.chan c).arming = some a) : s.holding c = false := by
  have hrec := h.records c
  unfold RecordsLawful at hrec
  unfold State.holding
  cases hst : (s.chan c).state with
  | hold => rw [hst, ha] at hrec; obtain ⟨_, _, hnone⟩ := hrec; cases hnone
  | yield t => rw [hst, ha] at hrec; obtain ⟨_, _, hnone, _⟩ := hrec; cases hnone
  | _ => rfl

theorem Rested.setChan {s : State} (h : Rested s) {c : Chan} {ch : Channel}
    (hst : ch.state = .seek ↔ (s.chan c).state = .seek) : Rested (s.setChan c ch) := by
  refine h.congr (by simp) (by simp) (fun e => ?_) (by simp)
  by_cases he : e = c
  · rw [he, setChan_chan_same, hst]
  · rw [setChan_chan_ne he]

theorem Rested.queueFrame {s : State} (h : Rested s) (f : Frame) : Rested (queueFrame f s) :=
  h.congr rfl rfl (fun _ => Iff.rfl) rfl

theorem Rested.setArming {s : State} (h : Rested s) (c : Chan) (a : Option Arming) : Rested (setArming c a s) :=
  Rested.setChan h Iff.rfl

/-! ### Cycles that start (R105, R110, R112, R113) -/

/-- The cycle record and the cycle state of a channel in HOLD changed. -/
theorem Orderly.cycled {s : State} (h : Orderly s) {c : Chan} {cs : CycleState} {r : Option CycleRecord}
    (hst : (s.chan c).state = .hold)
    (hcyc : ∀ cy, cs.current = some cy →
      cs.number ≠ none ∧ (cy.barrier ≠ none → cy.phase = .noticeWait) ∧ (cy.border ≠ none → cy.phase = .borderWait))
    (hab : cs.current ≠ none → (s.chan c).abandoned = none)
    (hcalls : ∀ w, Unasked s c w ∨ ({ s.chan c with cycles := some cs, record := r } : Channel).called = some w) :
    Orderly (s.setChan c { s.chan c with cycles := some cs, record := r }) := by
  have hrec := (recordsLawful_hold hst).1 (h.records c)
  refine h.setChan Iff.rfl Iff.rfl
    ((recordsLawful_hold (ch := { s.chan c with cycles := some cs, record := r }) hst).2 ⟨hrec.1, rfl, hrec.2.2⟩)
    (fun cs' cy hcs hcy => ?_) (fun ha => ?_) hcalls
  · cases hcs; exact hcyc cy hcy
  · refine ⟨?_, (h.abandoned c ha).2⟩
    by_contra hcur
    have hnone := hab hcur
    rw [show ({ s.chan c with cycles := some cs, record := r } : Channel).abandoned = (s.chan c).abandoned from rfl, hnone] at ha
    cases ha

/-- A cycle starts in a HOLD with none in progress (R112, R113). -/
theorem Orderly.startCycle {s : State} (h : Orderly s) {c : Chan} (hst : (s.chan c).state = .hold)
    (hcur : (s.chan c).current = none) (hab : (s.chan c).abandoned = none) : Orderly (startCycle c s) := by
  unfold Machine.startCycle
  split
  case h_2 => exact h
  rename_i cs pen hcs hpen
  refine Orderly.queueFrame (h.cycled (c := c) hst (fun cy hcy => ?_) (fun _ => hab) fun w => ?_) _
  · cases hcy
    exact ⟨nofun, fun _ => rfl, fun hb => absurd rfl hb⟩
  · exact .inl (h.unasked (by rw [called_of_no_cycle hcur (by rw [hst]; nofun)]; nofun))

theorem startCycle_state (c : Chan) (s : State) : ((startCycle c s).chan c).state = (s.chan c).state := by
  unfold startCycle
  split
  · cases c <;> rfl
  · rfl

/-- The first cycle of a hold (R112). -/
theorem Orderly.startFirst {s : State} (h : Orderly s) {c : Chan} (hst : (s.chan c).state = .hold)
    (hcur : (s.chan c).current = none) : Orderly (startFirst c s) := by
  unfold Machine.startFirst
  split
  · exact h.startCycle hst hcur (by assumption)
  · exact h

theorem startFirst_state (c : Chan) (s : State) : ((startFirst c s).chan c).state = (s.chan c).state := by
  unfold startFirst
  split
  · exact startCycle_state c s
  · rfl

/-- A channel of an ACTIVE tile enters HOLD (R105, R110, R131). -/
theorem Orderly.enterHold {s : State} (h : Orderly s) {c : Chan} (pen : Pen) (level strength first : Nat) (byTake : Bool)
    (hst : (s.chan c).state ≠ .absent) (hm : s.mode = .active) : Orderly (enterHold c pen level strength first byTake s) := by
  have hmoved : Orderly (Machine.moveTo c (.defer 0) s) := h.moveTo hst hm ⟨nofun, nofun, nofun⟩
  have hstate := moveTo_chan_same c (.defer 0) s
  have hbare : ((Machine.moveTo c (.defer 0) s).chan c).Bare :=
    (recordsLawful_iff_bare (.inl (by rw [hstate]; exact ⟨nofun, nofun, nofun⟩))).1 (hmoved.records c)
  have heq : Machine.enterHold c pen level strength first byTake s = (Machine.moveTo c (.defer 0) s).setChan c
      { (Machine.moveTo c (.defer 0) s).chan c with
        state := .hold, level := level, lastStrength := strength, pen := some pen, record := none
        cycles := some (newCycles s.settings s.now first byTake)
        arming := none } := by
    unfold Machine.enterHold Machine.moveTo
    cases c <;> rfl
  rw [heq]
  refine hmoved.setChan (by simp [hstate]) (by simp [hstate]) ((recordsLawful_hold rfl).2 ⟨rfl, rfl, rfl⟩)
    (fun cs cy hcs hcy => ?_) (fun ha => ⟨rfl, (hmoved.abandoned c ha).2⟩) fun w => .inl (hmoved.unasked ?_)
  · cases hcs; cases hcy
  · rw [called_of_bare hbare (by rw [hstate]; nofun)]; nofun

theorem enterHold_state (c : Chan) (pen : Pen) (level strength first : Nat) (byTake : Bool) (s : State) :
    ((enterHold c pen level strength first byTake s).chan c).state = .hold ∧
      ((enterHold c pen level strength first byTake s).chan c).current = none := by
  unfold enterHold moveTo; cases c <;> exact ⟨rfl, rfl⟩

/-- A claim is decided (R105). -/
theorem Orderly.decideClaim {s : State} (h : Orderly s) {c : Chan} {cl : Claim} (hst : (s.chan c).state = .claim cl) :
    Settled (decideClaim c cl s, none) := by
  have hpresent : (s.chan c).state ≠ .absent := by rw [hst]; nofun
  have hm : s.mode = .active := h.active hpresent (by rw [hst]; nofun)
  unfold Machine.decideClaim
  split
  · obtain ⟨hstate, hcur⟩ := enterHold_state c (penOfClaim cl) 3 cl.strength 0 false s
    have hheld := (h.enterHold (penOfClaim cl) 3 cl.strength 0 false hpresent hm).startFirst hstate hcur
    exact hheld.settled (hheld.rested_of_busy (c := c) (by rw [startFirst_state, hstate]; nofun)
      (by rw [startFirst_state, hstate]; nofun))
  · have hdeferred := h.moveTo (c := c) (st := .defer (s.now + msec 5)) hpresent hm ⟨nofun, nofun, nofun⟩
    exact hdeferred.settled (hdeferred.rested_of_busy (c := c) (by rw [moveTo_chan_same]; nofun)
      (by rw [moveTo_chan_same]; nofun))

/-- A pen is taken over (R131). -/
theorem Orderly.takePen {s : State} (h : Orderly s) {f : YieldFields} (origin : Nat)
    (hst : (s.chan f.ch).state ≠ .absent) (hm : s.mode = .active) : Orderly (takePen origin f s) := by
  obtain ⟨hstate, hcur⟩ := enterHold_state f.ch (penOfYield s.settings f) f.level 0 ((f.cycle + 1) % 65536) true s
  exact ((h.enterHold _ _ _ _ _ hst hm).queueFrame _).startFirst hstate hcur

/-! ### Cycles that go on (R114 to R118) -/

/-- A cycle in progress excludes an abandoned one (R120). -/
theorem Orderly.not_abandoned {s : State} (h : Orderly s) {c : Chan} {cy : Cycle} (hcy : (s.chan c).current = some cy) :
    (s.chan c).abandoned = none := by
  cases hab : (s.chan c).abandoned with
  | none => rfl
  | some f =>
    have hnone := (h.abandoned c (by rw [hab]; rfl)).1
    rw [hcy] at hnone; cases hnone

/-- A cycle in progress is that of the cycle state. -/
theorem current_eq_some {ch : Channel} {cy : Cycle} (h : ch.current = some cy) :
    ∃ cs, ch.cycles = some cs ∧ cs.current = some cy := by
  unfold Channel.current at h
  split at h
  · exact ⟨_, by assumption, h⟩
  · cases h

/-- A change of the cycle in progress, as one update. -/
theorem modCycle_eq {c : Chan} {s : State} {cs : CycleState} {cy : Cycle} (g : Cycle → Cycle)
    (hcs : (s.chan c).cycles = some cs) (hcy : cs.current = some cy) :
    modCycle c g s = s.setChan c { s.chan c with cycles := some { cs with current := some (g cy) } } := by
  unfold modCycle
  rw [modChan_eq]
  simp only [hcs, hcy, Option.map_some]

/-- The cycle in progress goes on to where its timers belong; what it then calls for it may have asked for only before. -/
theorem Orderly.modCycle {s : State} (h : Orderly s) {c : Chan} {cy : Cycle} {g : Cycle → Cycle}
    (hcy : (s.chan c).current = some cy) (hbarrier : (g cy).barrier ≠ none → (g cy).phase = .noticeWait)
    (hborder : (g cy).border ≠ none → (g cy).phase = .borderWait)
    (hcalls : (∀ w, Unasked s c w) ∨ (g cy).phase = cy.phase) : Orderly (modCycle c g s) := by
  obtain ⟨cs, hcs, hcur⟩ := current_eq_some hcy
  have hst := (h.records c).hold_of_current hcy
  rw [modCycle_eq g hcs hcur]
  refine h.cycled (c := c) (r := (s.chan c).record) hst (fun cy' hcy' => ?_) (fun _ => h.not_abandoned hcy) fun w => ?_
  · cases hcy'
    exact ⟨(h.cycles c cs cy hcs hcur).1, hbarrier, hborder⟩
  · rcases hcalls with hun | hphase
    · exact .inl (hun w)
    · refine (h.calls c w).imp_right fun hc => ?_
      have hcalled := ((callsFor_iff s c w).1 hc).1
      simp only [Channel.called, Channel.current, hst, hcs, hcur, hphase] at hcalled ⊢
      exact hcalled

theorem modCycle_current {c : Chan} {s : State} {cy : Cycle} (g : Cycle → Cycle) (hcy : (s.chan c).current = some cy) :
    ((modCycle c g s).chan c).current = some (g cy) ∧ ((modCycle c g s).chan c).state = (s.chan c).state := by
  obtain ⟨cs, hcs, hcur⟩ := current_eq_some hcy
  rw [modCycle_eq g hcs hcur, setChan_chan_same]
  exact ⟨rfl, rfl⟩

/-- What a channel has asked for does not change with channels. -/
theorem unasked_setChan {s : State} {c e : Chan} {ch : Channel} {w : Work} :
    Unasked (s.setChan c ch) e w ↔ Unasked s e w := by
  simp only [Unasked, Waits, Runs, setChan_queue, setChan_engine]

theorem unasked_modCycle {s : State} {c e : Chan} {g : Cycle → Cycle} {w : Work} :
    Unasked (modCycle c g s) e w ↔ Unasked s e w := unasked_setChan

/-- The request of a cycle that has come to TIP or COLLAR (R115, R116). -/
theorem answers_of_phase {s : State} (h : Orderly s) {q : Request} {cy : Cycle} (hcy : (s.chan q.ch).current = some cy)
    (hphase : (cy.phase = .tip ∧ q.ask.work = .tip) ∨ (cy.phase = .collar ∧ q.ask.work = .collar))
    (hun : ∀ w, Unasked s q.ch w) : Answers (s, some q) := by
  refine ⟨h, fun q' hq => ?_⟩
  cases hq
  refine ⟨(callsFor_iff _ _ _).2 ⟨?_, fun hw => ?_⟩, hun _⟩
  · have hst := (h.records q.ch).hold_of_current hcy
    simp only [Channel.called, hst, hcy]
    rcases hphase with ⟨hp, hw⟩ | ⟨hp, hw⟩ <;> rw [hp, hw]
  · rcases hphase with ⟨_, hw'⟩ | ⟨_, hw'⟩ <;> rw [hw] at hw' <;> cases hw'

/-- In HOLD the tile does not rest. -/
theorem Orderly.rested_of_current {s : State} (h : Orderly s) {c : Chan} {cy : Cycle}
    (hcy : (s.chan c).current = some cy) : Rested s := by
  have hst := (h.records c).hold_of_current hcy
  exact h.rested_of_busy (c := c) (by rw [hst]; nofun) (by rw [hst]; nofun)

/-- The barrier is reached (R114). -/
theorem Orderly.reachBarrier {s : State} (h : Orderly s) {c : Chan} {cy : Cycle} (fault : Bool)
    (hcy : (s.chan c).current = some cy) (hwait : cy.phase = .noticeWait ∨ cy.barrier ≠ none) :
    Settled (reachBarrier c fault s) := by
  obtain ⟨cs, hcs, hcur⟩ := current_eq_some hcy
  obtain ⟨_, hbarrier, hborder⟩ := h.cycles c cs cy hcs hcur
  have hphase : cy.phase = .noticeWait := hwait.elim id hbarrier
  have hst := (h.records c).hold_of_current hcy
  have hun : ∀ w, Unasked s c w := fun w => h.unasked (by simp [Channel.called, hst, hcy, hphase])
  have hnone : cy.border = none := by
    by_contra hb
    have := hborder hb
    rw [hphase] at this; cases this
  obtain ⟨hcur', _⟩ := modCycle_current (fun cy => { cy with phase := .tip, barrier := none, ringFault := fault }) hcy
  have horder := h.modCycle (g := fun cy => { cy with phase := .tip, barrier := none, ringFault := fault }) hcy
    (fun hb => absurd rfl hb) (fun hb => absurd hnone hb) (.inl hun)
  exact ⟨answers_of_phase horder (q := askTip _ c) hcur' (.inl ⟨rfl, rfl⟩) fun w => unasked_modCycle.2 (hun w),
    horder.rested_of_current hcur'⟩

/-! ### Cycles that end (R119, R126, R127, R137) -/

/-- After a REPORT: the yield test (R126, R127). -/
theorem Orderly.yieldTest {s : State} (h : Orderly s) {c : Chan} (ct : Contents) (n k : Nat)
    (hst : (s.chan c).state = .hold) (hcur : (s.chan c).current = none) : Settled (yieldTest c ct n k s, none) := by
  have hun : ∀ w, Unasked s c w := fun w => h.unasked (by rw [called_of_no_cycle hcur (by rw [hst]; nofun)]; nofun)
  obtain ⟨hpen, hcs, harm⟩ := (recordsLawful_hold hst).1 (h.records c)
  obtain ⟨cs, hcs⟩ := Option.isSome_iff_exists.1 hcs
  have hcur' : cs.current = none := by simpa [Channel.current, hcs] using hcur
  unfold Machine.yieldTest
  split
  · unfold setSpacing
    rw [modChan_eq]
    simp only [hcs]
    have hspaced := h.cycled (c := c) (cs := { cs with spacing := k - 1 }) (r := (s.chan c).record) hst
      (fun cy hcy => by rw [hcur'] at hcy; cases hcy) (fun hc => absurd hcur' hc) fun w => .inl (hun w)
    exact hspaced.settled (hspaced.rested_of_busy (c := c) (by rw [setChan_chan_same, hst]; nofun)
      (by rw [setChan_chan_same, hst]; nofun))
  split
  · rw [enterYield_queueFrame]
    have hyielded := (h.queueFrame (.yield (yieldOf c ct n (s.chan c)))).setChan (c := c)
      (ch := { s.chan c with state := .yield (s.now + msec 2), record := none }) (by simp [hst]) (by simp [hst])
      ⟨hpen, by simp [hcs], harm, hcur, rfl⟩ (h.cycles c) (fun ha => ⟨hcur, (h.abandoned c ha).2⟩) fun w => .inl (hun w)
    exact hyielded.settled (hyielded.rested_of_busy (c := c) (by rw [setChan_chan_same]; nofun)
      (by rw [setChan_chan_same]; nofun))
  · exact h.settled (h.rested_of_busy (c := c) (by rw [hst]; nofun) (by rw [hst]; nofun))

/-- A cycle ends that asks for nothing (R119). -/
theorem Orderly.finishCycle {s : State} (h : Orderly s) {c : Chan} (ct : Contents) (disturbed lost : Bool)
    (hun : ∀ w, Unasked s c w) (hr : Rested s) : Settled (finishCycle c ct disturbed lost s) := by
  unfold Machine.finishCycle
  split
  case h_2 => exact h.settled hr
  rename_i cs hcs
  split
  case h_2 => exact h.settled hr
  rename_i cy hcy
  have hst := (h.records c).hold_of_current (cy := cy) (by simp [Channel.current, hcs, hcy])
  have hended : ∀ f, Orderly ((Machine.queueFrame f s).modChan c fun ch =>
      { ch with cycles := some { cs with current := none, overrun := 0 } }) := fun f =>
    (h.queueFrame f).cycled (c := c) (r := (s.chan c).record) hst nofun (fun hc => absurd rfl hc) fun w => .inl (hun w)
  simp only
  split
  · refine ((hended _).queueFrame _).enterSeek ?_ ?_
    · simp [hst]
    · simpa using h.active (c := c) (by rw [hst]; nofun) (by rw [hst]; nofun)
  · exact (hended _).yieldTest _ _ _ (by simp [hst]) (by rw [modChan_chan_same]; rfl)

/-- The border wait ends (R70, R75, R118). -/
theorem Orderly.endBorderWait {s : State} (h : Orderly s) {c : Chan} (hun : ∀ w, Unasked s c w) (hr : Rested s) :
    Settled (endBorderWait c s) := by
  unfold Machine.endBorderWait
  split
  case h_2 => exact h.settled hr
  rename_i r pen hrec hpen
  have hst := (h.records c).hold_of_record hrec
  obtain ⟨_, hcs, harm⟩ := (recordsLawful_hold hst).1 (h.records c)
  simp only
  rw [modChan_eq]
  have hrecords : ∀ (v : CycleRecord) (p : Pen) (l n : Nat),
      RecordsLawful { s.chan c with record := some v, pen := some p, level := l, lastStrength := n } := fun v p l n =>
    (recordsLawful_hold (ch := { s.chan c with record := some v, pen := some p, level := l, lastStrength := n }) hst).2
      ⟨rfl, hcs, harm⟩
  refine Orderly.finishCycle (h.retouch (by rfl) (by rfl) (by rfl) (hrecords _ _ _ _) (h.cycles c)) _ _ _
    (fun w => unasked_setChan.2 (hun w)) (hr.setChan Iff.rfl)

/-- A held report ends a cycle (R92, R115). -/
theorem Orderly.endHeld {s : State} (h : Orderly s) {c : Chan} (hun : ∀ w, Unasked s c w) (hr : Rested s) :
    Settled (endHeld c s) := by
  unfold Machine.endHeld
  split
  · exact h.finishCycle _ _ _ hun hr
  · exact h.settled hr

/-- The border wait begins (R116, R118). -/
theorem Orderly.beginBorderWait {s : State} (h : Orderly s) {c : Chan} {cy : Cycle} (hcy : (s.chan c).current = some cy)
    (hbarrier : cy.barrier = none) (hun : ∀ w, Unasked s c w) : Settled (beginBorderWait c s) := by
  have hwaits := h.modCycle (g := fun cy => { cy with phase := .borderWait, border := some (s.now + usec 296) }) hcy
    (fun hb => absurd hbarrier hb) (fun _ => rfl) (.inl hun)
  obtain ⟨hcur, _⟩ := modCycle_current (fun cy => { cy with phase := .borderWait, border := some (s.now + usec 296) }) hcy
  have hr := hwaits.rested_of_current hcur
  unfold Machine.beginBorderWait
  simp only
  split
  · split
    · exact hwaits.endBorderWait (fun w => unasked_modCycle.2 (hun w)) hr
    · exact hwaits.settled hr
  · exact hwaits.settled hr

/-- A cycle record of a channel changed. -/
theorem Orderly.modRecord {s : State} (h : Orderly s) (c : Chan) (g : CycleRecord → CycleRecord) : Orderly (modRecord c g s) := by
  refine h.retouch (ch := { s.chan c with record := (s.chan c).record.map g }) rfl rfl rfl ?_ (h.cycles c)
  have hrec := h.records c
  unfold RecordsLawful at hrec ⊢
  cases hst : (s.chan c).state with
  | hold => rw [hst] at hrec; exact hrec
  | yield t =>
    rw [hst] at hrec
    obtain ⟨hpen, hcs, harm, hcur, hr⟩ := hrec
    exact ⟨hpen, hcs, harm, hcur, by simp [hr]⟩
  | _ =>
    rw [hst] at hrec
    obtain ⟨hpen, hcs, hr⟩ := hrec
    exact ⟨hpen, hcs, by simp [hr]⟩

theorem modRecord_current (c : Chan) (g : CycleRecord → CycleRecord) (s : State) :
    ((modRecord c g s).chan c).current = (s.chan c).current := by
  rw [modRecord_chan_same]; rfl

/-- A cycle beyond its barrier, and not in the border wait, has no timer (R114, R118). -/
theorem Orderly.no_timers {s : State} (h : Orderly s) {c : Chan} {cy : Cycle} (hcy : (s.chan c).current = some cy)
    (hn : cy.phase ≠ .noticeWait) (hb : cy.phase ≠ .borderWait) : cy.barrier = none ∧ cy.border = none := by
  obtain ⟨cs, hcs, hcur⟩ := current_eq_some hcy
  obtain ⟨_, hbarrier, hborder⟩ := h.cycles c cs cy hcs hcur
  exact ⟨by_contra fun hne => hn (hbarrier hne), by_contra fun hne => hb (hborder hne)⟩

/-- A tip result (R115). -/
theorem Orderly.tipResult {s : State} (h : Orderly s) {c : Chan} (seq : Sequence) (hun : ∀ w, Unasked s c w)
    (hr : Rested s) : Settled (tipResult c seq s) := by
  unfold Machine.tipResult
  split
  case h_2 => exact h.settled hr
  rename_i cy hcy
  split
  · exact h.settled hr
  rename_i hphase
  rw [not_not] at hphase
  obtain ⟨hbarrier, hborder⟩ := h.no_timers hcy (by rw [hphase]; nofun) (by rw [hphase]; nofun)
  split
  · have hformed := h.modRecord c (formTip s c seq.windowX seq.windowY)
    have hcy' := (modRecord_current c (formTip s c seq.windowX seq.windowY) s).trans hcy
    obtain ⟨hcur, _⟩ := modCycle_current (fun cy => { cy with phase := .collar }) hcy'
    have horder := hformed.modCycle (g := fun cy => { cy with phase := .collar }) hcy' (fun hb => absurd hbarrier hb)
      (fun hb => absurd hborder hb) (.inl fun w => unasked_setChan.2 (hun w))
    exact ⟨answers_of_phase horder (q := askCollar _ c) hcur (.inr ⟨rfl, rfl⟩)
      fun w => unasked_modCycle.2 (unasked_setChan.2 (hun w)), horder.rested_of_current hcur⟩
  split
  · obtain ⟨hcur, _⟩ := modCycle_current (fun cy => { cy with attempt := 2 }) hcy
    have horder := h.modCycle (g := fun cy => { cy with attempt := 2 }) hcy (fun hb => absurd hbarrier hb)
      (fun hb => absurd hborder hb) (.inl hun)
    exact ⟨answers_of_phase horder (q := askTip _ c) hcur (.inl ⟨hphase, rfl⟩) fun w => unasked_modCycle.2 (hun w),
      horder.rested_of_current hcur⟩
  · exact h.endHeld hun hr

/-- A collar result (R116). -/
theorem Orderly.collarResult {s : State} (h : Orderly s) {c : Chan} (seq : Sequence) (hun : ∀ w, Unasked s c w)
    (hr : Rested s) : Settled (collarResult c seq s) := by
  unfold Machine.collarResult
  split
  case h_2 => exact h.settled hr
  rename_i cy hcy
  split
  · exact h.settled hr
  rename_i hphase
  rw [not_not] at hphase
  obtain ⟨hbarrier, _⟩ := h.no_timers hcy (by rw [hphase]; nofun) (by rw [hphase]; nofun)
  split
  · exact h.beginBorderWait hcy hbarrier hun
  · exact (h.modRecord c _).beginBorderWait ((modRecord_current c _ s).trans hcy) hbarrier fun w => unasked_setChan.2 (hun w)

end Sys2Proof.Machine
end

section
/-! PROOFS. Timers, received frames, results and the arbiter keep the tracker's order (R26, R32 to R35, R111 to R138, R167). -/

namespace Sys2Proof.Machine

/-! ### Timers of a channel (R111, R124, R129) -/

theorem Orderly.reach {s : State} (h : Orderly s) (n : Nat) : Orderly (reach n s) :=
  h.same rfl rfl (fun _ => rfl) rfl rfl rfl rfl

/-- Report timer, overrun and spacing counts of a channel changed. -/
theorem Orderly.recount {s : State} (h : Orderly s) {c : Chan} {cs cs' : CycleState} (hcs : (s.chan c).cycles = some cs)
    (hcur : cs'.current = cs.current) (hn : cs'.number = cs.number) :
    Orderly (s.setChan c { s.chan c with cycles := some cs' }) := by
  have hsame : ({ s.chan c with cycles := some cs' } : Channel).current = (s.chan c).current := by
    simp only [Channel.current, hcs, hcur]
  refine h.retouch (by rfl) hsame (by rfl) ?_ fun cs'' cy h1 h2 => ?_
  · have hrec := h.records c
    unfold RecordsLawful at hrec ⊢
    cases hst : (s.chan c).state with
    | hold => rw [hst] at hrec; exact ⟨hrec.1, rfl, hrec.2.2⟩
    | yield t =>
      rw [hst] at hrec
      obtain ⟨hpen, _, harm, hnone, hr⟩ := hrec
      exact ⟨hpen, rfl, harm, hsame.trans hnone, hr⟩
    | _ => rw [hst] at hrec; rw [hrec.2.1] at hcs; cases hcs
  · cases h1
    rw [hn]
    exact h.cycles c cs cy hcs (hcur ▸ h2)

/-- The report timer (R111). -/
theorem Orderly.reportDue {s : State} (h : Orderly s) (c : Chan) : Orderly (reportDue c s) := by
  unfold Machine.reportDue
  split
  · exact h
  rename_i cs hcs
  have htimed : Orderly ((Machine.reach cs.timer s).modChan c fun ch =>
      { ch with cycles := some { cs with timer := cs.timer + reportInterval s.settings } }) :=
    (h.reach cs.timer).recount hcs rfl rfl
  simp only
  split
  · rename_i hin
    have hst : (s.chan c).state = .hold := by simpa [State.inHold] using hin
    split
    · exact htimed.recount (cs := { cs with timer := cs.timer + reportInterval s.settings })
        (by rw [modChan_chan_same]) rfl rfl
    · rename_i hfree
      obtain ⟨hcur, hab⟩ : cs.current = none ∧ (s.chan c).abandoned = none := by
        simpa [cycleInProgress, Channel.current] using hfree
      exact htimed.startCycle (by simpa using hst) (by simpa [Channel.current] using hcur) (by simpa using hab)
  · exact htimed

theorem Rested.modChan {s : State} (h : Rested s) {c : Chan} {g : Channel → Channel}
    (hst : (g (s.chan c)).state = (s.chan c).state) : Rested (s.modChan c g) := h.setChan (by rw [hst])

theorem Rested.startCycle {s : State} (h : Rested s) (c : Chan) : Rested (startCycle c s) := by
  unfold Machine.startCycle
  split
  · exact Rested.queueFrame (h.modChan rfl) _
  · exact h

theorem Rested.reportDue {s : State} (h : Rested s) (c : Chan) : Rested (reportDue c s) := by
  unfold Machine.reportDue
  split
  · exact h
  rename_i cs hcs
  have hreach : Rested (Machine.reach cs.timer s) := h.congr rfl rfl (fun _ => Iff.rfl) rfl
  simp only
  split
  · split
    · exact (hreach.modChan rfl).modChan rfl
    · exact Rested.startCycle (hreach.modChan rfl) c
  · exact hreach.modChan rfl

/-- The yield timer: HOLD again (R129). -/
theorem Orderly.yieldDue {s : State} (h : Orderly s) {c : Chan} {t : Nat} (hst : (s.chan c).state = .yield t) :
    Settled (setSpacing c 8 (setState c .hold s), none) := by
  have hrec := h.records c
  unfold RecordsLawful at hrec
  rw [hst] at hrec
  obtain ⟨hpen, hcs, harm, hcur, _⟩ := hrec
  have hheld : Orderly (setState c .hold s) := h.setChan (by simp [hst]) (by simp [hst])
    ((recordsLawful_hold rfl).2 ⟨hpen, hcs, harm⟩) (h.cycles c) (h.abandoned c)
    fun w => .inl (h.unasked (by rw [called_of_no_cycle hcur (by rw [hst]; nofun)]; nofun))
  obtain ⟨cs, hcs⟩ := Option.isSome_iff_exists.1 hcs
  have hcs' : ((setState c .hold s).chan c).cycles = some cs := by rw [setState_chan_same]; exact hcs
  have hspaced : Orderly (setSpacing c 8 (setState c .hold s)) := by
    unfold setSpacing
    rw [modChan_eq]
    simp only [hcs']
    exact hheld.recount hcs' rfl rfl
  have hstate : ((setSpacing c 8 (setState c .hold s)).chan c).state = .hold := by
    unfold setSpacing
    rw [modChan_chan_same]
    split <;> rw [setState_chan_same]
  exact hspaced.settled (hspaced.rested_of_busy (c := c) (by rw [hstate]; nofun) (by rw [hstate]; nofun))

/-! ### Arming records (R121 to R124) -/

/-- The age of an arming record runs out (R124). -/
theorem Orderly.ageOut {s : State} (h : Orderly s) (c : Chan) (a : Arming) (hr : Rested s) : Settled (ageOut c a s, none) := by
  have hgone : Orderly (Machine.setArming c none s) := h.setArming (.inl rfl)
  unfold Machine.ageOut
  split
  · exact (hgone.queueFrame _).settled ((hr.setArming c none).queueFrame _)
  · exact hgone.settled (hr.setArming c none)

/-- A border capture's result (R122, R123). -/
theorem Orderly.captureResult {s : State} (h : Orderly s) (c : Chan) (k : Coil) (seq : Sequence) (hr : Rested s) :
    Settled (captureResult c k seq s, none) := by
  unfold Machine.captureResult
  split
  case h_2 => exact h.settled hr
  rename_i a ha
  have hset : ∀ o, Settled (Machine.setArming c o s, none) := fun o =>
    (h.setArming (.inr (h.not_holding_of_arming ha))).settled (hr.setArming c o)
  split
  · exact h.settled hr
  split
  · exact hset _
  · unfold completeArming
    split
    · exact ((hset none).orderly.queueFrame _).settled ((hset none).rested.queueFrame _)
    · exact hset _

/-- A NOTICE is considered for arming (R121). -/
theorem Orderly.considerArming {s : State} (h : Orderly s) (c : Chan) (origin cycle : Nat) (wx wy : WantField) :
    Orderly (considerArming c origin cycle wx wy s) := by
  unfold Machine.considerArming
  split
  · exact h
  · rename_i hheld
    exact h.setArming (.inr (by simpa using hheld))

/-! ### Received frames (R102 to R138) -/

section Frames

variable {s : State} (h : Orderly s) (hm : s.mode = .active)
include h hm

theorem Orderly.standBy {c : Chan} (origin : Nat) (hst : (s.chan c).state ≠ .absent) : Orderly (standBy c origin s) :=
  h.moveTo hst hm ⟨nofun, nofun, nofun⟩

/-- Another holder is heard of (R106, R134, R136). -/
theorem Orderly.holderHeard (c : Chan) (origin : Nat) : Orderly (holderHeard c origin s) := by
  have hduel : (s.chan c).state ≠ .absent → Orderly (duel c origin s) := fun hst => by
    unfold duel
    split
    · exact h
    · exact h.standBy hm origin hst
  unfold Machine.holderHeard
  split
  case h_1 => exact h
  case h_2 hst => exact hduel (by rw [hst]; nofun)
  case h_3 hst => exact hduel (by rw [hst]; nofun)
  all_goals rename_i hst; exact h.standBy hm origin (by rw [hst]; nofun)

/-- A SIGHTING of another tile (R102, R104, R108, R128). -/
theorem Orderly.onSighting (c : Chan) (origin strength : Nat) : Orderly (onSighting c origin strength s) := by
  unfold Machine.onSighting
  split
  · rename_i hst
    exact h.moveTo (by rw [hst]; nofun) hm ⟨nofun, nofun, nofun⟩
  · rename_i cl hst
    have hbare : (s.chan c).Bare := (recordsLawful_iff_bare (.inl (by rw [hst]; exact ⟨nofun, nofun, nofun⟩))).1 (h.records c)
    exact h.setChan (by simp [hst]) (by simp [hst]) hbare (h.cycles c) (h.abandoned c)
      fun w => .inl (h.unasked (by rw [called_of_bare hbare (by rw [hst]; nofun)]; nofun))
  · exact h

/-- A YIELD (R130, R131). -/
theorem Orderly.onYield (origin : Nat) (f : YieldFields) : Orderly (onYield origin f s) := by
  unfold Machine.onYield
  split
  · split
    case h_5 => exact h
    all_goals rename_i hst; exact h.takePen origin (by rw [hst]; nofun) hm
  · exact h

/-- A TAKE (R128, R132). -/
theorem Orderly.onTake (c : Chan) (origin releaser : Nat) : Orderly (onTake c origin releaser s) := by
  unfold Machine.onTake
  split
  · rename_i hheld
    refine h.standBy hm origin fun hst => ?_
    have hholding := hheld.2
    simp [State.holding, hst] at hholding
  · exact h.holderHeard hm c origin

/-- A LOST (R138). -/
theorem Orderly.onLost (c : Chan) (origin : Nat) : Answers (onLost c origin s) := by
  unfold Machine.onLost
  split
  · rename_i hst
    exact (h.enterSeek (by rw [hst]; nofun) hm).toAnswers
  · rename_i hst
    split
    · exact (h.enterSeek (by rw [hst]; nofun) hm).toAnswers
    · exact h.answers
  · exact h.answers

/-- What a pen frame does to its channel. -/
theorem Orderly.penEffect (origin : Nat) (f : Frame) : Answers (penEffect origin f s) := by
  cases f with
  | sighting => exact (h.onSighting hm _ _ _).answers
  | notice => exact ((h.holderHeard hm _ _).considerArming _ _ _ _ _).answers
  | report => exact (h.holderHeard hm _ _).answers
  | yield => exact (h.onYield hm _ _).answers
  | take => exact (h.onTake hm _ _ _).answers
  | lost => exact h.onLost hm _ _
  | border => exact h.answers
  | restart => exact h.answers

end Frames

/-- A pen frame at a tile that tracks (R93, R94). -/
theorem Orderly.penFrame {s : State} (h : Orderly s) (htracking : s.tracking = true) (origin : Nat) {f : Frame}
    (hf : ∀ y, f = .yield y → y.level ≤ 3) : Settled (penFrame origin f s) := by
  have hactive := wake_active htracking
  exact (h.wake.penEffect hactive origin f).timeDormant ((penEffect_steady origin _ hf).active hactive)

/-- A BORDER at the holder (R117, R118). -/
theorem Orderly.onBorder {s : State} (h : Orderly s) (origin : Nat) (b : Border) (hr : Rested s) :
    Settled (onBorder origin b s) := by
  unfold Machine.onBorder
  split
  case isFalse => exact h.settled hr
  unfold takeBorder
  split
  case h_2 => exact h.settled hr
  rename_i r cy hrec hcy
  have hmerged := h.modRecord b.ch (mergeBorder s.straps origin b)
  have hcy' := (modRecord_current b.ch (mergeBorder s.straps origin b) s).trans hcy
  have hgot : (cy.got b.axis).phase = cy.phase ∧ (cy.got b.axis).barrier = cy.barrier ∧ (cy.got b.axis).border = cy.border := by
    unfold Cycle.got; split <;> exact ⟨rfl, rfl, rfl⟩
  obtain ⟨hphase, hbarrier, hborder⟩ := hgot
  obtain ⟨cs, hcs, hcur⟩ := current_eq_some hcy
  obtain ⟨_, hlawBarrier, hlawBorder⟩ := h.cycles b.ch cs cy hcs hcur
  have hcounted := hmerged.modCycle (g := Cycle.got b.axis) hcy' (by rw [hbarrier, hphase]; exact hlawBarrier)
    (by rw [hborder, hphase]; exact hlawBorder) (.inr hphase)
  simp only
  split
  · have hrest := hcounted.rested_of_current (modCycle_current (Cycle.got b.axis) hcy').1
    split
    · rename_i hwait
      refine hcounted.endBorderWait (fun w => unasked_modCycle.2 (unasked_setChan.2 (h.unasked ?_))) hrest
      have hst := (h.records b.ch).hold_of_current hcy
      simp [Channel.called, hst, hcy, hwait.1]
    · exact hcounted.settled hrest
  · exact hmerged.settled (hmerged.rested_of_current hcy')

/-! ### ACTIVE after the double sweep and after a restart (R50, R95, R109, R167) -/

/-- A tile that is not yet at work becomes ACTIVE (R50, R95, R109). -/
theorem Orderly.becomeActive {s : State} (h : Orderly s) (hoff : s.tracking = false) : Settled (becomeActive s) := by
  have habsent : ∀ c, (s.chan c).state = .absent := fun c => by
    by_contra hst
    rw [((h.states c).1 hst).1] at hoff; cases hoff
  have hbare : ∀ c, (s.chan c).Bare := fun c => (recordsLawful_iff_bare (.inr (habsent c))).1 (h.records c)
  have hnone : ∀ c w, Unasked s c w := fun c w =>
    h.unasked (by rw [called_of_bare (hbare c) (by rw [habsent]; nofun)]; nofun)
  obtain ⟨hpass, htimer, hbackoff⟩ := h.seek.2.2 hoff
  have hseeking : ∃ u : State, Machine.becomeActive s = Machine.beginPass (Machine.timeDormant u) ∧ u.mode = .active ∧
      u.settings = s.settings ∧ u.seek = s.seek ∧ u.queue = s.queue ∧ u.engine = s.engine ∧
      ∀ c, u.chan c = { s.chan c with state := if s.enabled c = true then .seek else .absent } := by
    refine ⟨_, rfl, ?_⟩
    split
    · rename_i hset
      have henabled : s.enabled .B = true := hset
      refine ⟨rfl, rfl, rfl, rfl, rfl, fun c => ?_⟩
      cases c
      · rfl
      · rw [if_pos henabled]; rfl
    · rename_i hset
      have hdisabled : ¬ s.enabled .B = true := hset
      have hkeep : s.chan .B = { s.chan .B with state := .absent } := by rw [← habsent .B]
      refine ⟨rfl, rfl, rfl, rfl, rfl, fun c => ?_⟩
      cases c
      · rfl
      · rw [if_neg hdisabled]; exact hkeep
  obtain ⟨u, heq, hmode, hset, hseek, hqueue, hengine, hchan⟩ := hseeking
  have henabled : ∀ c, u.enabled c = s.enabled c := fun c => by cases c <;> simp [State.enabled, hset]
  have hall : u.allSeek = true := (allSeek_iff u).2 fun c hc => by rw [hchan, ← henabled, hc]; rfl
  have hrecs : ∀ c, (u.chan c).Bare ∧ ((u.chan c).state.unheld ∨ (u.chan c).state = .absent) := fun c => by
    rw [hchan]
    refine ⟨hbare c, ?_⟩
    simp only
    split
    · exact .inl ⟨nofun, nofun, nofun⟩
    · exact .inr rfl
  have hless : AsksLess u s := .of_marked (by rw [hqueue]) (.inl (by rw [hengine]))
  have horder : Orderly (Machine.timeDormant u) := by
    refine ⟨fun c => ?_, ⟨fun p hp => ?_, fun ht => ?_, fun ht => ?_⟩, fun c => (recordsLawful_iff_bare (hrecs c).2).2 (hrecs c).1,
      fun c => (hrecs c).1.cycleLawful, fun c hc => ?_, ?_, fun c w => .inl (hless.unasked (hnone c w)),
      fun c w hw => absurd hw (hless.unasked (hnone c w)).1, fun _ => ⟨hmode, hall⟩, fun _ => hall⟩
    · rw [timeDormant_chan, hchan, show (Machine.timeDormant u).tracking = true by simp [State.tracking, hmode],
        show (Machine.timeDormant u).enabled c = s.enabled c from henabled c]
      by_cases he : s.enabled c = true <;> simp [he]
    · rw [timeDormant_seek, hseek, hpass] at hp; cases hp
    · rw [timeDormant_seek, hseek, htimer] at ht; cases ht
    · rw [show (Machine.timeDormant u).tracking = true by simp [State.tracking, hmode]] at ht; cases ht
    · refine ⟨(hrecs c).1.current, hless.runsAbandoned c (h.abandoned c ?_).2⟩
      rw [timeDormant_chan, hchan] at hc; exact hc
    · have hq := h.queue
      unfold QueueLawful at hq ⊢
      rw [timeDormant_queue, hqueue]; exact hq
  rw [heq]
  refine ⟨horder.beginPass (by rw [timeDormant_seek, hseek, htimer]) (by rw [timeDormant_seek, hseek, hbackoff]), ?_⟩
  unfold Machine.beginPass
  split
  · exact (rested_timeDormant u).congr rfl rfl (fun _ => Iff.rfl) rfl
  · exact rested_timeDormant u

/-- What a soft restart leaves of a channel: no state and no record, level 3, strength 0; a cycle whose sequence still runs lives on (R36, R120, R167). -/
def State.cleared (c : Chan) (s : State) : Channel :=
  { ((s.released c .absent).chan c) with level := 3, lastStrength := 0, arming := none }

/-- The part of a soft restart common to every mode, as one update (R39, R54, R154, R167). -/
def State.restarted (s : State) : State :=
  { s with
    queue := []
    engine := { s.engine with
      running := s.engine.running.map fun r : Running => { r with seq := { r.seq with abandoned := true } } }
    chanA := s.cleared .A
    chanB := s.cleared .B
    seek := { s.seek with pass := none, timer := none, backoff := none, turn := .A }
    dormant := none
    link := { s.link with own := [] } }

theorem restartChannel_eq (c : Chan) {s : State} (hq : s.queue = []) (hab : ∀ r, s.engine.running = some r → r.seq.abandoned = true) :
    restartChannel c s = s.setChan c (s.cleared c) := by
  have hrun : (s.engine.running.map fun r : Running =>
      if r.seq.job.tracks c then { r with seq := { r.seq with abandoned := true } } else r) = s.engine.running := by
    cases hr : s.engine.running with
    | none => rfl
    | some r =>
      have hmark : ({ r with seq := { r.seq with abandoned := true } } : Running) = r := by rw [← hab r hr]
      simp [hmark]
  have hsame : ({ s with queue := [], engine := { s.engine with running := s.engine.running } } : State) = s := by rw [← hq]
  unfold restartChannel
  rw [abandonCycle_eq, hrun, hq, List.filter_nil, hsame]
  cases c <;> rfl

/-- What is cleared depends on the channel and on the kind of sequence in progress. -/
theorem cleared_congr {c : Chan} {s t : State} (hchan : t.chan c = s.chan c)
    (hrun : t.engine.running.map (fun r : Running => r.seq.job) = s.engine.running.map fun r : Running => r.seq.job) :
    t.cleared c = s.cleared c := by
  have hany : ∀ u : State, (u.engine.running.any fun r : Running => r.seq.job.tracks c) =
      (u.engine.running.map fun r : Running => r.seq.job).any (Job.tracks c) := fun u => by cases u.engine.running <;> rfl
  unfold State.cleared State.released
  simp only [setChan_chan_same, hchan, hany, hrun]

/-- The part of a soft restart common to every mode (R167). -/
theorem restartCommon_eq (s : State) : restartCommon s = s.restarted := by
  have hengine : (restartEngine s).engine = { s.engine with
      running := s.engine.running.map fun r : Running => { r with seq := { r.seq with abandoned := true } } } := by
    simp [restartEngine, abandonRunning_eq]
  have hmarked : ∀ r, (restartEngine s).engine.running = some r → r.seq.abandoned = true := fun r hr => by
    rw [hengine] at hr
    obtain ⟨_, _, rfl⟩ := Option.map_eq_some_iff.1 hr
    rfl
  have hjob : (restartEngine s).engine.running.map (fun r : Running => r.seq.job) =
      s.engine.running.map fun r : Running => r.seq.job := by rw [hengine]; cases s.engine.running <;> rfl
  have hchan : ∀ c, (restartEngine s).chan c = s.chan c := fun c => by cases c <;> simp [restartEngine, State.chan]
  have hA : (restartEngine s).cleared .A = s.cleared .A := cleared_congr (hchan .A) hjob
  have hB : ((restartEngine s).setChan .A (s.cleared .A)).cleared .B = s.cleared .B := cleared_congr (hchan .B) (by simpa using hjob)
  unfold restartCommon
  simp only
  rw [restartChannel_eq .A rfl hmarked, hA, restartChannel_eq .B (setChan_queue ..) (by simpa using hmarked), hB]
  simp only [restartEngine, abandonRunning_eq, if_true]
  rfl

/-- A soft restart leaves a tile that is not yet at work in order (R167). -/
theorem Orderly.restarted {s : State} (h : Orderly s) (b : Baseline) :
    Orderly { s.restarted with mode := .start, baseline := b } := by
  have hnone : ∀ c w, Unasked { s.restarted with mode := .start, baseline := b } c w := fun c w => by
    refine ⟨fun ⟨_, hq, _⟩ => (by cases hq), fun ⟨r, hr, _, hab⟩ => ?_⟩
    obtain ⟨_, _, rfl⟩ := Option.map_eq_some_iff.1 hr
    cases hab
  have hchan : ∀ c, ({ s.restarted with mode := .start, baseline := b } : State).chan c = s.cleared c := fun c => by cases c <;> rfl
  have hcleared : ∀ c, (s.cleared c).state = .absent ∧ (s.cleared c).Bare := fun c => by
    cases c <;> exact ⟨rfl, rfl, rfl, rfl⟩
  refine ⟨fun c => ?_, ⟨nofun, nofun, fun _ => ⟨rfl, rfl, rfl⟩⟩, fun c => ?_, fun c => ?_, fun c hc => ?_, List.Pairwise.nil,
    fun c w => .inl (hnone c w), fun c w hw => absurd hw (hnone c w).1, nofun, nofun⟩
  · rw [hchan]; exact iff_of_false (fun hne => hne (hcleared c).1) fun ht => by cases ht.1
  · rw [hchan]; exact (recordsLawful_iff_bare (.inr (hcleared c).1)).2 (hcleared c).2
  · rw [hchan]; exact (hcleared c).2.cycleLawful
  · rw [hchan] at hc ⊢
    refine ⟨(hcleared c).2.current, ?_⟩
    have htracks : ∃ r, s.engine.running = some r ∧ r.seq.job.tracks c = true := by
      rcases released_abandoned (c := c) (st := .absent) (s := s) hc with hold | hrun
      · obtain ⟨_, r, hr, ht, _⟩ := h.abandoned c hold
        exact ⟨r, hr, ht⟩
      · exact hrun
    obtain ⟨r, hr, ht⟩ := htracks
    exact ⟨{ r with seq := { r.seq with abandoned := true } }, by simp [State.restarted, hr], ht, rfl⟩

/-- RESTART at a tile that tracks: ACTIVE afresh (R167). -/
theorem Orderly.softRestart {s : State} (h : Orderly s) (hm : s.mode ≠ .start) : Settled (softRestart s) := by
  have hfresh := (h.restarted { (restartCommon s).baseline with owed := 0 }).becomeActive rfl
  have heq : Machine.softRestart s =
      Machine.becomeActive { s.restarted with mode := .start, baseline := { (restartCommon s).baseline with owed := 0 } } := by
    unfold Machine.softRestart
    rw [if_neg hm, restartCommon_eq]; rfl
  rw [heq]; exact hfresh

/-- RESTART in START (R167). -/
theorem Orderly.restartCommon {s : State} (h : Orderly s) (hm : s.mode = .start) : Orderly (restartCommon s) := by
  have heq : Machine.restartCommon s = { s.restarted with mode := .start, baseline := s.baseline } := by
    rw [restartCommon_eq, ← hm]; rfl
  rw [heq]; exact h.restarted _

/-! ### Sequences that begin (R30, R32 to R34) -/

/-- An undriven sequence of an idle engine is no channel's work. -/
theorem asksLess_undriven {s t : State} (hq : t.queue.Sublist s.queue) (hidle : s.engine.running = none)
    (hrun : ∀ r, t.engine.running = some r → r.seq.job.work = none) : AsksLess t s :=
  ⟨hq, fun c w ⟨r, hr, hw, _⟩ => (by rw [hrun r hr] at hw; cases hw), fun c ⟨r, hr, _⟩ => (by rw [hidle] at hr; cases hr)⟩

/-- An undriven sequence begins. -/
theorem Orderly.startUndriven {s : State} (h : Orderly s) {ph : Phase} {seq : Sequence} {q : List Request}
    (hq : q.Sublist s.queue) (hidle : s.engine.running = none) (hw : seq.job.work = none) :
    Orderly (startSequence ph seq { s with queue := q }) := by
  refine h.less (asksLess_undriven (by simpa using hq) hidle fun r hr => ?_) (fun c => by rw [startSequence_chan]; rfl)
    (by simp) (by simp) (by simp) (.inl (by simp))
  rw [startSequence_running] at hr
  cases hr; exact hw

/-- A waiting request's sequence begins, the request gone from the queue (R32, R34). -/
theorem Orderly.startRequest {s : State} (h : Orderly s) {r : Request} {q : List Request} (hmem : r ∈ s.queue)
    (hsub : q.Sublist s.queue) (hperm : (r :: q).Subperm s.queue) (hidle : s.engine.running = none) :
    Orderly (startSequence .drive (sequenceOf r s) { s with queue := q }) ∧
      ∀ c w, Unasked s c w → Unasked (startSequence .drive (sequenceOf r s) { s with queue := q }) c w := by
  have hrun : ∀ c w, Runs (startSequence .drive (sequenceOf r s) { s with queue := q }) c w → r.ch = c ∧ r.ask.work = w := by
    rintro c w ⟨u, hu, hw, _⟩
    rw [startSequence_running] at hu
    cases hu
    rw [sequenceOf_work] at hw
    cases hw; exact ⟨rfl, rfl⟩
  have hwait : ∀ c w, Waits (startSequence .drive (sequenceOf r s) { s with queue := q }) c w → Waits s c w :=
    fun c w ⟨x, hx, hxc⟩ => ⟨x, hsub.subset (by simpa using hx), hxc⟩
  have hun : ∀ c w, Unasked s c w → Unasked (startSequence .drive (sequenceOf r s) { s with queue := q }) c w :=
    fun c w hu => ⟨fun hx => hu.1 (hwait c w hx), fun hx => hu.1 ⟨r, hmem, hrun c w hx⟩⟩
  have hlone : ∀ x ∈ q, ¬ SameRequester r x := by
    have hpair : (r :: q).Pairwise fun a b => ¬ SameRequester a b := by
      obtain ⟨l, hl, hls⟩ := hperm
      exact (hl.pairwise_iff fun {a b} hab hsame => hab ⟨hsame.1.symm, hsame.2.symm⟩).1 (List.Pairwise.sublist hls h.queue)
    exact (List.pairwise_cons.1 hpair).1
  refine ⟨h.retask (fun c => by rw [startSequence_chan]; rfl) (by simp) (by simp) (by simp) (.inl (by simp))
    (fun c _ ⟨u, hu, _⟩ => by rw [hidle] at hu; cases hu) ?_ (fun c w => (h.calls c w).imp_left (hun c w)) (fun c w hx hr => ?_), hun⟩
  · unfold QueueLawful
    simpa using List.Pairwise.sublist hsub h.queue
  · obtain ⟨rfl, rfl⟩ := hrun c w hr
    obtain ⟨x, hx, hxc⟩ := hx
    exact hlone x (by simpa using hx) ⟨hxc.1.symm, hxc.2.symm⟩

end Sys2Proof.Machine
end

section
/-! PROOFS. The arbiter, the ends of sequences and the tile modes keep the tracker's laws: every step does (R26, R32 to R35, R93, R166). -/

namespace Sys2Proof.Machine

/-! ### A tile that does no work of its own -/

/-- A tile that does no work of its own (R34, R38, R166, R168). -/
structure Still (s : State) : Prop where
  running : s.engine.running = none
  queue : s.queue = []
  own : s.link.own = []
  empty : ∀ c, ChannelEmpty (s.chan c)
  owed : s.baseline.owed = 0
  sweeping : s.baseline.sweeping = false
  timer : s.baseline.timer = none
  pass : s.seek.pass = none
  seekTimer : s.seek.timer = none
  backoff : s.seek.backoff = none
  dormant : s.dormant = none
  tracking : s.tracking = false

theorem quietWhenApart_iff (s : State) : QuietWhenApart s ↔ (s.apart = true → Still s) := by
  refine imp_congr_right fun _ => ⟨?_, fun h => ?_⟩
  · rintro ⟨hrun, hq, hown, hA, hB, howed, hsweep, ht, hp, hst, hb, hd, htr⟩
    exact ⟨hrun, hq, hown, fun c => by cases c; exacts [hA, hB], howed, hsweep, ht, hp, hst, hb, hd, htr⟩
  · exact ⟨h.running, h.queue, h.own, h.empty .A, h.empty .B, h.owed, h.sweeping, h.timer, h.pass, h.seekTimer, h.backoff,
      h.dormant, h.tracking⟩

namespace Still

variable {s : State} (h : Still s)
include h

theorem unasked (c : Chan) (w : Work) : Unasked s c w :=
  ⟨fun ⟨_, hq, _⟩ => (by rw [h.queue] at hq; cases hq), fun ⟨_, hr, _⟩ => by rw [h.running] at hr; cases hr⟩

theorem bare (c : Chan) : (s.chan c).Bare := by
  obtain ⟨_, hrec, hpen, hcs, _⟩ := h.empty c
  exact ⟨hpen, hcs, hrec⟩

theorem mode : s.mode ≠ .active ∧ s.mode ≠ .dormant := by
  simpa [State.tracking] using h.tracking

theorem orderly : Orderly s := by
  have habsent : ∀ c, (s.chan c).state = .absent := fun c => (h.empty c).1
  refine ⟨fun c => iff_of_false (fun hne => hne (habsent c)) fun ht => absurd (h.tracking.symm.trans ht.1) nofun,
    ⟨fun p hp => absurd (h.pass.symm.trans hp) nofun, fun ht => (by rw [h.seekTimer] at ht; cases ht),
      fun _ => ⟨h.pass, h.seekTimer, h.backoff⟩⟩,
    fun c => (recordsLawful_iff_bare (.inr (habsent c))).2 (h.bare c), fun c => (h.bare c).cycleLawful, fun c hc => ?_, ?_,
    fun c w => .inl (h.unasked c w), fun c w hw => absurd hw (h.unasked c w).1, fun hd => ?_, fun hm => absurd hm h.mode.2⟩
  · obtain ⟨_, _, _, _, hab, _⟩ := h.empty c
    rw [hab] at hc; cases hc
  · unfold QueueLawful; rw [h.queue]; exact List.Pairwise.nil
  · rw [h.dormant] at hd; cases hd

theorem rested : Rested s := fun hm => absurd hm h.mode.1

/-- What a still tile leaves alone keeps it still. -/
theorem same {t : State} (hrun : t.engine.running = s.engine.running) (hq : t.queue = s.queue)
    (hown : t.link.own.length ≤ s.link.own.length) (hchan : ∀ c, t.chan c = s.chan c) (hbase : t.baseline = s.baseline)
    (hpass : t.seek.pass = s.seek.pass) (hst : t.seek.timer = s.seek.timer) (hb : t.seek.backoff = s.seek.backoff)
    (hd : t.dormant = s.dormant) (hm : t.tracking = false) : Still t := by
  refine ⟨hrun.trans h.running, hq.trans h.queue, ?_, fun c => by rw [hchan]; exact h.empty c, by rw [hbase]; exact h.owed,
    by rw [hbase]; exact h.sweeping, by rw [hbase]; exact h.timer, hpass.trans h.pass, hst.trans h.seekTimer, hb.trans h.backoff,
    hd.trans h.dormant, hm⟩
  rw [h.own] at hown
  exact List.eq_nil_of_length_eq_zero (Nat.le_zero.1 hown)

end Still

/-! ### The laws as an order -/

theorem trackerLawful_iff (s : State) : TrackerLawful s ↔
    ReadInStart s ∧ (s.apart = true → Still s) ∧ Orderly s ∧ Rested s ∧ (s.baseline.sweeping = true → s.mode = .start) := by
  have hB : s.enabled .B = true ↔ s.settings.enableB = true := Iff.rfl
  rw [← quietWhenApart_iff]
  constructor
  · rintro ⟨hread, hquiet, ⟨hstA, hstB⟩, ⟨hdormant, hdormantMode⟩, hseek, hrecA, hrecB, habA, habB, hcyA, hcyB,
      ⟨hqueue, hwaits, hruns⟩, hsweep⟩
    refine ⟨hread, hquiet, ⟨fun c => ?_, hseek, fun c => ?_, fun c => ?_, fun c => ?_, hqueue, fun c w => ?_,
      fun c w ⟨q, hq, hqc⟩ ⟨r, hr, hw, hab⟩ => (hruns r c w hr hw hab).2 q hq hqc, hdormant.1, hdormantMode⟩,
      fun hm hall => hdormant.2 ⟨hm, hall⟩, hsweep⟩
    · cases c
      · exact hstA.trans (by simp [State.enabled])
      · exact hstB
    · cases c; exacts [hrecA, hrecB]
    · cases c; exacts [hcyA, hcyB]
    · cases c; exacts [habA, habB]
    · by_cases hwait : Waits s c w
      · obtain ⟨q, hq, rfl, rfl⟩ := hwait
        exact .inr (hwaits q hq)
      · by_cases hrun : Runs s c w
        · obtain ⟨r, hr, hw, hab⟩ := hrun
          exact .inr (hruns r c w hr hw hab).1
        · exact .inl ⟨hwait, hrun⟩
  · rintro ⟨hread, hquiet, h, hrest, hsweep⟩
    refine ⟨hread, hquiet, ⟨(h.states .A).trans (by simp [State.enabled]), h.states .B⟩,
      ⟨⟨h.dormant, fun ha => hrest ha.1 ha.2⟩, h.dormantMode⟩, h.seek, h.records .A, h.records .B, h.abandoned .A,
      h.abandoned .B, h.cycles .A, h.cycles .B, ⟨h.queue, fun q hq => ?_, fun r c w hr hw hab => ⟨?_, fun q hq hqc => ?_⟩⟩, hsweep⟩
    · exact (h.calls q.ch q.ask.work).resolve_left fun hu => hu.1 ⟨q, hq, rfl, rfl⟩
    · exact (h.calls c w).resolve_left fun hu => hu.2 ⟨r, hr, hw, hab⟩
    · exact h.once c w ⟨q, hq, hqc⟩ ⟨r, hr, hw, hab⟩

/-- The laws of the tracker, and what the request of a reaction has to be (R32, R34). -/
def TrackerKept (r : Reaction) : Prop :=
  TrackerLawful r.1 ∧ ∀ q, r.2 = some q → CallsFor r.1 q.ch q.ask.work ∧ Unasked r.1 q.ch q.ask.work

namespace TrackerLawful

variable {s : State} (h : TrackerLawful s)
include h

theorem orderly : Orderly s := ((trackerLawful_iff s).1 h).2.2.1

theorem rested : Rested s := ((trackerLawful_iff s).1 h).2.2.2.1

theorem still (hapart : s.apart = true) : Still s := ((trackerLawful_iff s).1 h).2.1 hapart

theorem start_of_sweeping (hs : s.baseline.sweeping = true) : s.mode = .start := ((trackerLawful_iff s).1 h).2.2.2.2 hs

theorem kept : TrackerKept (s, none) := ⟨h, nofun⟩

/-- A tile at work is not apart. -/
theorem not_apart (hbusy : ¬ Still s) : s.apart = false := by
  rw [← Bool.not_eq_true]
  exact fun hapart => hbusy (h.still hapart)

theorem not_apart_of_running {r : Running} (hr : s.engine.running = some r) : s.apart = false :=
  h.not_apart fun hs => by rw [hs.running] at hr; cases hr

theorem not_apart_of_state {c : Chan} (hst : (s.chan c).state ≠ .absent) : s.apart = false :=
  h.not_apart fun hs => hst (hs.empty c).1

/-- What leaves reset, loader, double sweep and mode alone, at a tile that is not apart. -/
theorem working {t : State} (hapart : s.apart = false) (ha : Around s t) (ho : Orderly t) (hr : Rested t) : TrackerLawful t := by
  have hmode : t.mode = .outside → s.mode = .outside := fun hm => by
    rcases ha.mode with hs | ⟨_, hs⟩
    · rw [← hs, hm]
    · rw [hm] at hs; cases hs
  have hnot : t.apart ≠ true := fun ht => by
    have hsapart : s.apart = true := by
      unfold State.apart at ht ⊢
      rw [ha.inReset, ha.loader] at ht
      simp only [Bool.or_eq_true, beq_iff_eq] at ht ⊢
      exact ht.imp_right hmode
    rw [hapart] at hsapart; cases hsapart
  refine (trackerLawful_iff t).2 ⟨fun hread => absurd ?_ hnot, fun ht => absurd ht hnot, ho, hr, fun hsweep => ?_⟩
  · simp [State.apart, hread]
  · rw [ha.sweeping] at hsweep
    have hstart := h.start_of_sweeping hsweep
    rcases ha.mode with hs | ⟨hs, _⟩
    · rw [hs, hstart]
    · rw [hstart] at hs; cases hs

/-- A reaction of the tracker's at a tile that is not apart. -/
theorem settled {r : Reaction} (hapart : s.apart = false) (ha : Around s r.1) (hr : Settled r) : TrackerKept r :=
  ⟨h.working hapart ha hr.orderly hr.rested, hr.called⟩

/-- What the laws do not speak of has changed. -/
theorem same {t : State} (hreset : t.inReset = s.inReset) (hload : t.loader = s.loader) (hmode : t.mode = s.mode)
    (hrun : t.engine.running = s.engine.running) (hq : t.queue = s.queue) (hown : t.link.own.length ≤ s.link.own.length)
    (hchan : ∀ c, t.chan c = s.chan c) (hbase : t.baseline = s.baseline) (hseek : t.seek = s.seek)
    (hd : t.dormant = s.dormant) (hset : t.settings = s.settings) : TrackerLawful t := by
  obtain ⟨hread, hstill, ho, hr, hsweep⟩ := (trackerLawful_iff s).1 h
  have hapart : t.apart = s.apart := by unfold State.apart; rw [hreset, hload, hmode]
  refine (trackerLawful_iff t).2 ⟨fun ht => by rw [hmode]; exact hread (hload ▸ ht), fun ht => ?_,
    ho.same hq hrun hchan hseek hmode hset hd, hr.congr hmode hset (fun c => by rw [hchan]) hd,
    fun hs => by rw [hmode]; exact hsweep (hbase ▸ hs)⟩
  have hs := hstill (hapart ▸ ht)
  exact hs.same hrun hq hown hchan hbase (by rw [hseek]) (by rw [hseek]) (by rw [hseek]) hd
    (by unfold State.tracking; rw [hmode]; exact hs.tracking)

end TrackerLawful

/-- A still tile is lawful. -/
theorem Still.lawful {s : State} (h : Still s) (hread : ReadInStart s) : TrackerLawful s :=
  (trackerLawful_iff s).2 ⟨hread, fun _ => h, h.orderly, h.rested, fun hs => by rw [h.sweeping] at hs; cases hs⟩

/-! ### The arbiter (R30, R32 to R34) -/

/-- A reaction's request is still what it has to be when no more is asked for, and what calls for it stays. -/
theorem TrackerKept.mono {s t : State} {o : Option Request} (h : TrackerKept (s, o)) (ht : TrackerLawful t)
    (hchan : ∀ c, (t.chan c).called = (s.chan c).called) (hseek : t.seek = s.seek)
    (hun : ∀ c w, Unasked s c w → Unasked t c w) : TrackerKept (t, o) := by
  refine ⟨ht, fun q hq => ?_⟩
  obtain ⟨hcalls, hnone⟩ := h.2 q hq
  refine ⟨?_, hun _ _ hnone⟩
  simp only [callsFor_iff, PassOf] at hcalls ⊢
  rw [hchan, hseek]; exact hcalls

/-- The grant keeps the tracker's laws (R33, R34). -/
theorem TrackerKept.grant {s : State} {o : Option Request} (h : TrackerKept (s, o)) : TrackerKept (grant s, o) := by
  have hlaw : TrackerLawful s := h.1
  have hrest : ∀ t : State, (∀ c, t.chan c = s.chan c) → t.mode = s.mode → t.settings = s.settings → t.dormant = s.dormant →
      Rested t := fun t hc hm hset hd => hlaw.rested.congr hm hset (fun c => by rw [hc]) hd
  rcases grant_cases s with ⟨q, hq, hg⟩ | ⟨hidle, howed, q, hq, hg⟩ | ⟨hidle, r, q, hmem, hsub, hperm, hg⟩ <;> rw [hg]
  · have hless : AsksLess { s with queue := q } s := .of_marked hq (.inl rfl)
    refine h.mono ?_ (fun _ => rfl) rfl fun _ _ => hless.unasked
    by_cases hapart : s.apart = true
    · have hqnil : q = s.queue := by
        rw [(hlaw.still hapart).queue] at hq ⊢
        exact List.sublist_nil.1 hq
      rw [hqnil]; exact hlaw
    · exact hlaw.working (by simpa using hapart) (queue_steady hq).toAround
        (hlaw.orderly.less hless (fun _ => rfl) rfl rfl rfl (.inl rfl)) (hrest _ (fun _ => rfl) rfl rfl rfl)
  · have hapart : s.apart = false := hlaw.not_apart fun hs => by rw [hs.owed] at howed; cases howed
    refine h.mono (hlaw.working hapart ?_ (hlaw.orderly.startUndriven hq hidle rfl) (hrest _ ?_ ?_ ?_ ?_)) ?_ ?_ ?_
    · exact ⟨by simp, by simp, by simp, .inl (by simp)⟩
    · intro c; rw [startSequence_chan]; rfl
    · simp
    · simp
    · simp
    · intro c; rw [startSequence_chan]; rfl
    · simp
    · exact fun c w => (asksLess_undriven (by simpa using hq) hidle fun u hu => by
        rw [startSequence_running] at hu; cases hu; rfl).unasked
  · have hapart : s.apart = false := hlaw.not_apart fun hs => by rw [hs.queue] at hmem; cases hmem
    obtain ⟨horder, hun⟩ := hlaw.orderly.startRequest hmem hsub hperm hidle
    refine h.mono (hlaw.working hapart ?_ horder (hrest _ ?_ ?_ ?_ ?_)) ?_ ?_ hun
    · exact ⟨by simp, by simp, by simp, .inl (by simp)⟩
    · intro c; rw [startSequence_chan]; rfl
    · simp
    · simp
    · simp
    · intro c; rw [startSequence_chan]; rfl
    · simp

/-- A request that arrives (R32). -/
theorem TrackerKept.enqueue {s : State} {q : Request} (h : TrackerKept (s, some q)) :
    TrackerKept ({ s with queue := enqueue q s.queue }, none) := by
  have hlaw : TrackerLawful s := h.1
  obtain ⟨hcalls, hnone⟩ := h.2 q rfl
  have hst : (s.chan q.ch).state ≠ .absent := fun hst => by
    have hcalled := ((callsFor_iff _ _ _).1 hcalls).1
    simp [Channel.called, hst] at hcalled
  have hwait : ∀ c w, Waits { s with queue := Machine.enqueue q s.queue } c w → Waits s c w ∨ (q.ch = c ∧ q.ask.work = w) := by
    rintro c w ⟨x, hx, hxc⟩
    change x ∈ Machine.enqueue q s.queue at hx
    unfold Machine.enqueue at hx
    split at hx
    · obtain ⟨y, hy, rfl⟩ := List.mem_map.1 hx
      split at hxc
      · exact .inr hxc
      · exact .inl ⟨y, hy, hxc⟩
    · rcases List.mem_append.1 hx with hx | hx
      · exact .inl ⟨x, hx, hxc⟩
      · rw [List.mem_singleton.1 hx] at hxc; exact .inr hxc
  refine TrackerLawful.kept (hlaw.working (hlaw.not_apart_of_state hst) ⟨rfl, rfl, rfl, .inl rfl⟩ ?_ ?_)
  · refine hlaw.orderly.retask (fun _ => rfl) rfl rfl rfl (.inl rfl) (fun _ _ => id) (enqueue_pairwise q hlaw.orderly.queue)
      (fun c w => ?_) fun c w hw hr => ?_
    · by_cases hq : q.ch = c ∧ q.ask.work = w
      · obtain ⟨rfl, rfl⟩ := hq; exact .inr hcalls
      · refine (hlaw.orderly.calls c w).imp_left fun hu => ⟨fun hx => ?_, hu.2⟩
        exact (hwait c w hx).elim hu.1 hq
    · rcases hwait c w hw with hw | ⟨rfl, rfl⟩
      · exact hlaw.orderly.once c w hw hr
      · exact hnone.2 hr
  · exact hlaw.rested.congr rfl rfl (fun _ => Iff.rfl) rfl

/-- A fall of foreign excitation (R27, R30). -/
theorem TrackerKept.fieldFalls {s : State} {o : Option Request} (f : Nat) (h : TrackerKept (s, o)) :
    TrackerKept (fieldFalls f s, o) := by
  unfold Machine.fieldFalls
  split
  case isFalse => exact h
  have hquiet : TrackerKept (setDetector f .quiet s, o) :=
    h.mono (h.1.same rfl rfl rfl rfl rfl le_rfl (fun _ => rfl) rfl rfl rfl rfl) (fun _ => rfl) rfl fun _ _ => id
  unfold fallReported
  split
  case h_2 => exact hquiet
  rename_i a hidle ha
  split
  case isFalse => exact hquiet
  have hlaw := hquiet.1
  have hapart := hlaw.not_apart fun hs => by
    obtain ⟨_, _, _, _, _, harm⟩ := hs.empty (freqChan f)
    rw [harm] at ha; cases ha
  have harmed := hlaw.orderly.setArming (a := some { a with capturing := true })
    (.inr (hlaw.orderly.not_holding_of_arming ha))
  have hidle' : (setArming (freqChan f) (some { a with capturing := true }) (setDetector f .quiet s)).engine.running = none := by
    simpa using hidle
  have hcalled : ∀ c, ((setArming (freqChan f) (some { a with capturing := true }) (setDetector f .quiet s)).chan c).called =
      (s.chan c).called ∧ ((setArming (freqChan f) (some { a with capturing := true }) (setDetector f .quiet s)).chan c).state =
      (s.chan c).state := fun c => by
    by_cases hc : c = freqChan f
    · rw [hc, setArming_chan_same]; exact ⟨rfl, rfl⟩
    · rw [setArming, State.modChan, setChan_chan_ne hc]; exact ⟨rfl, rfl⟩
  refine hquiet.mono (hlaw.working hapart ?_ (harmed.startUndriven (List.Sublist.refl _) hidle' rfl)
    (hlaw.rested.congr ?_ ?_ ?_ ?_)) ?_ ?_ ?_
  · exact ⟨by simp, by simp, by simp, .inl (by simp)⟩
  · simp
  · simp
  · intro c; rw [startSequence_chan, (hcalled c).2]; rfl
  · simp
  · intro c; rw [startSequence_chan, (hcalled c).1]; rfl
  · simp
  · exact fun c w => (asksLess_undriven (by simp) hidle fun u hu => by
      rw [startSequence_running] at hu; cases hu; rfl).unasked

end Sys2Proof.Machine
end

section
/-! PROOFS. Every step keeps the laws of the tracker (O58). -/

namespace Sys2Proof.Machine

/-! ### The end of a sequence (R26, R47, R50, R112) -/

/-- Without a marked tracking sequence no cycle lives on. -/
theorem Orderly.no_abandoned {s : State} (h : Orderly s) {c : Chan} (hra : ¬ RunsAbandoned s c) : (s.chan c).abandoned = none := by
  cases hab : (s.chan c).abandoned with
  | none => rfl
  | some cy => exact absurd (h.abandoned c (by rw [hab]; rfl)).2 hra

/-- The sequence of an abandoned cycle has ended (R112, R120). -/
theorem Orderly.abandonedEnds {s : State} (h : Orderly s) {r : Running} {c : Chan} (hrun : s.engine.running = some r)
    (htracks : r.seq.job.tracks c = true) (hr : Rested s) : Settled (abandonedEnds c (goIdle s), none) := by
  have hover : Orderly (s.modChan c fun ch => { ch with abandoned := none }) := by
    refine h.setChan (ch := { s.chan c with abandoned := none }) Iff.rfl Iff.rfl (h.records c) (h.cycles c) nofun fun w => ?_
    exact (h.calls c w).imp_right fun hc => ((callsFor_iff s c w).1 hc).1
  have hnone : ∀ e, ((s.modChan c fun ch => { ch with abandoned := none }).chan e).abandoned = none := fun e => by
    by_cases he : e = c
    · rw [he, modChan_chan_same]
    · rw [State.modChan, setChan_chan_ne he]
      refine h.no_abandoned fun ⟨u, hu, ht, _⟩ => he ?_
      rw [hrun] at hu; cases hu
      cases hj : r.seq.job <;> simp_all [Job.tracks]
  have hidle := hover.idle hnone
  have hrest : Rested (goIdle (s.modChan c fun ch => { ch with abandoned := none })) :=
    (hr.modChan (c := c) (g := fun ch => { ch with abandoned := none }) rfl).congr rfl rfl (fun _ => Iff.rfl) rfl
  unfold Machine.abandonedEnds
  simp only [← goIdle_modChan]
  split
  · rename_i cs hst hcs
    split
    · rename_i hn
      refine (hidle.startCycle hst ?_ (by rw [goIdle_chan]; exact hnone c)).settled (hrest.startCycle c)
      simp only [Channel.current, hcs]
      cases hcy : cs.current with
      | none => rfl
      | some cy =>
        have hnumber := (hidle.cycles c cs cy hcs hcy).1
        exact absurd (by simpa using hn) hnumber
    · exact hidle.settled hrest
  · exact hidle.settled hrest

/-- The result of work that was in progress: its channel asks for nothing then (R26, R32). -/
theorem Orderly.unasked_idle {s : State} (h : Orderly s) {c : Chan} {w : Work} (hruns : Runs s c w) (w' : Work) :
    Unasked (goIdle s) c w' := by
  refine ⟨fun hw => ?_, fun ⟨_, hr, _⟩ => by cases hr⟩
  by_cases heq : w' = w
  · subst heq; exact h.once c w' hw hruns
  · have hcalled : (s.chan c).called = some w :=
      ((callsFor_iff s c w).1 ((h.calls c w).resolve_left fun hu => hu.2 hruns)).1
    exact (h.unasked (c := c) (w := w') (by rw [hcalled]; exact fun he => heq (Option.some.inj he).symm)).1 hw

/-- Becoming ACTIVE leaves reset, loader and baseline unit alone. -/
theorem becomeActive_frame (s : State) : (becomeActive s).1.inReset = s.inReset ∧ (becomeActive s).1.loader = s.loader ∧
    (becomeActive s).1.baseline = s.baseline ∧ (becomeActive s).1.mode = .active := by
  have hpass : ∀ u, (beginPass u).1.inReset = u.inReset ∧ (beginPass u).1.loader = u.loader ∧
      (beginPass u).1.baseline = u.baseline ∧ (beginPass u).1.mode = u.mode := fun u => by
    unfold beginPass; split <;> exact ⟨rfl, rfl, rfl, rfl⟩
  unfold becomeActive
  simp only
  split <;> exact hpass _

/-- A tile that was at START's end or at work is ACTIVE and lawful (R50, R167). -/
theorem trackerKept_becomeActive {s u : State} (hapart : s.apart = false) (hreset : u.inReset = s.inReset)
    (hload : u.loader = s.loader) (hsweep : u.baseline.sweeping = false) (hsettled : Settled (becomeActive u)) :
    TrackerKept (becomeActive u) := by
  obtain ⟨hreset', hload', hbase', hmode'⟩ := becomeActive_frame u
  have hnot : (Machine.becomeActive u).1.apart ≠ true := by
    unfold State.apart at hapart ⊢
    rw [hreset', hreset, hload', hload, hmode']
    simp only [Bool.or_eq_false_iff] at hapart
    simp [hapart.1.1, hapart.1.2]
  refine ⟨(trackerLawful_iff _).2 ⟨fun hread => absurd ?_ hnot, fun ht => absurd ht hnot, hsettled.orderly, hsettled.rested,
    fun hs => ?_⟩, hsettled.called⟩
  · simp [State.apart, hread]
  · rw [hbase', hsweep] at hs; cases hs

/-- A baseline listen's result (R47, R49, R50). -/
theorem TrackerLawful.baselineResult {s : State} (h : TrackerLawful s) (hapart : s.apart = false) (slot : Nat) (seq : Sequence) :
    TrackerKept (baselineResult slot seq s) := by
  have hbase : ∀ b : Baseline, b.sweeping = s.baseline.sweeping → TrackerLawful { s with baseline := b } := fun b hb =>
    h.working hapart ⟨rfl, rfl, hb, .inl rfl⟩ (h.orderly.same rfl rfl (fun _ => rfl) rfl rfl rfl rfl)
      (h.rested.congr rfl rfl (fun _ => Iff.rfl) rfl)
  unfold Machine.baselineResult
  split
  · exact h.kept
  split
  · rename_i hsweep
    have hstepped : (stepSweep (writeSweep slot s).baseline).1.sweeping = s.baseline.sweeping := by
      unfold stepSweep; split <;> (try split) <;> rfl
    unfold sweepResult
    simp only
    split
    · refine trackerKept_becomeActive hapart rfl rfl rfl (Orderly.becomeActive ?_ ?_)
      · exact h.orderly.same rfl rfl (fun _ => rfl) rfl rfl rfl rfl
      · have hstart := h.start_of_sweeping hsweep
        simp [State.tracking, endSweep, writeSweep, hstart]
    · exact (hbase _ hstepped).kept
  · exact TrackerLawful.kept (s := completeRefresh slot s) (hbase _ rfl)

/-- The end of a sequence keeps the tracker's laws (R26). -/
theorem TrackerLawful.conclude {s : State} (h : TrackerLawful s) {r : Running} {seq : Sequence}
    (hrun : s.engine.running = some r) (hjob : r.seq.job = seq.job) (hab : r.seq.abandoned = seq.abandoned) :
    TrackerKept (conclude seq (goIdle s)) := by
  have hapart := h.not_apart_of_running hrun
  have horder := h.orderly
  have hidleAround : Around s (goIdle s) := ⟨rfl, rfl, rfl, .inl rfl⟩
  have hidleRested : Rested (goIdle s) := h.rested.congr rfl rfl (fun _ => Iff.rfl) rfl
  have hfree : (∀ c, r.seq.job.tracks c = true → r.seq.abandoned = false) → Orderly (goIdle s) := fun hf =>
    horder.idle fun c => horder.no_abandoned fun ⟨u, hu, ht, ha⟩ => by
      rw [hrun] at hu; cases hu
      rw [hf c ht] at ha; cases ha
  unfold Machine.conclude
  split
  · rename_i habandoned
    have hkept : Settled (discard seq (goIdle s), none) := by
      unfold discard
      split
      case h_1 c hj => exact horder.abandonedEnds (c := c) hrun (by simp [hjob, hj, Job.tracks]) h.rested
      case h_2 c hj => exact horder.abandonedEnds (c := c) hrun (by simp [hjob, hj, Job.tracks]) h.rested
      case h_3 htip hcollar =>
        refine (hfree fun c ht => ?_).settled hidleRested
        rw [hjob] at ht
        cases hj : seq.job with
        | tip d => exact absurd hj (htip d)
        | collar d => exact absurd hj (hcollar d)
        | _ => rw [hj] at ht; cases ht
    exact h.settled hapart (hidleAround.trans (discard_steady seq _).toAround) hkept
  · rename_i hnot
    have hab' : r.seq.abandoned = false := by rw [hab]; simpa using hnot
    have hidle := hfree fun _ _ => hab'
    have hruns : ∀ c w, seq.job.work = some (c, w) → ∀ w', Unasked (goIdle s) c w' := fun c w hw =>
      horder.unasked_idle ⟨r, hrun, by rw [hjob]; exact hw, hab'⟩
    unfold deliver
    cases hj : seq.job with
    | tip c =>
      exact h.settled hapart (hidleAround.trans (tipResult_steady ..).toAround)
        (hidle.tipResult seq (hruns c .tip (by rw [hj]; rfl)) hidleRested)
    | collar c =>
      exact h.settled hapart (hidleAround.trans (collarResult_steady ..).toAround)
        (hidle.collarResult seq (hruns c .collar (by rw [hj]; rfl)) hidleRested)
    | seekX c =>
      exact h.settled hapart (hidleAround.trans (seekResult_steady ..).toAround)
        (hidle.seekResult seq (hruns c .seek (by rw [hj]; rfl) .seek) hidleRested)
    | seekY c =>
      exact h.settled hapart (hidleAround.trans (seekResult_steady ..).toAround)
        (hidle.seekResult seq (hruns c .seek (by rw [hj]; rfl) .seek) hidleRested)
    | capture c k =>
      exact h.settled hapart (hidleAround.trans (captureResult_steady c k seq (goIdle s)).toAround)
        (hidle.captureResult c k seq hidleRested)
    | baseline slot =>
      exact TrackerLawful.baselineResult (h.working hapart hidleAround hidle hidleRested) hapart slot seq

/-! ### Reset, the image and OUTSIDE (R162 to R168) -/

/-- The part just after power-on does no work (R38, R53, R72, R109, R125, R153, R168). -/
theorem still_reset : Still State.reset := by
  refine ⟨rfl, rfl, rfl, fun c => ?_, rfl, rfl, rfl, rfl, rfl, rfl, rfl, rfl⟩
  cases c <;> exact ⟨rfl, rfl, rfl, rfl, rfl, rfl⟩

/-- The part in reset does no work (R168). -/
theorem still_enterReset (ends : Nat) (s : State) : Still (enterReset ends s) :=
  still_reset.same rfl rfl le_rfl (fun _ => rfl) rfl rfl rfl rfl rfl rfl

/-- An image that has been read leaves no read in progress, and changes loader and settings alone. -/
theorem loadImage_readEnds (o : List Byte) (s : State) : (loadImage o s).loader.readEnds = none := by
  unfold loadImage; split <;> rfl

/-- A still tile stays still while the image is checked (R165, R166). -/
theorem Still.loadImage {s : State} (h : Still s) (o : List Byte) : Still (loadImage o s) := by
  rw [loadImage_eq]
  exact h.same rfl rfl le_rfl (fun _ => rfl) rfl rfl rfl rfl rfl h.tracking

theorem TrackerLawful.still_of_reading {s : State} (h : TrackerLawful s) (hread : s.loader.readEnds ≠ none) : Still s :=
  h.still (by simp [State.apart, Option.isSome_iff_ne_none.2 hread])

theorem TrackerLawful.start_of_reading {s : State} (h : TrackerLawful s) (hread : s.loader.readEnds ≠ none) : s.mode = .start :=
  ((trackerLawful_iff s).1 h).1 (Option.isSome_iff_ne_none.2 hread)

/-- The double sweep begins at the end of the read (R50, R165). -/
theorem TrackerLawful.beginSweep {s : State} (h : TrackerLawful s) (o : List Byte) (hr : s.inReset = false)
    (hread : s.loader.readEnds ≠ none) : TrackerLawful (beginSweep (loadImage o s)) := by
  have hstill := (h.still_of_reading hread).loadImage o
  have hmode : (Machine.beginSweep (Machine.loadImage o s)).mode = .start := by simp [h.start_of_reading hread]
  have hnot : (Machine.beginSweep (Machine.loadImage o s)).apart ≠ true := by
    have hload : (Machine.beginSweep (Machine.loadImage o s)).loader.readEnds = none := loadImage_readEnds o s
    unfold State.apart
    rw [hload, hmode]
    simp [hr]
  refine (trackerLawful_iff _).2 ⟨fun _ => hmode, fun ha => absurd ha hnot,
    hstill.orderly.same rfl rfl (fun _ => rfl) rfl rfl rfl rfl, fun hm => ?_, fun _ => hmode⟩
  rw [hmode] at hm; cases hm

/-- The tile goes DORMANT (R94). -/
theorem TrackerLawful.goDormant {s : State} (h : TrackerLawful s) {t : Nat} (ht : s.dormant = some t) :
    TrackerLawful (goDormant t s) := by
  obtain ⟨hmode, hall⟩ := h.orderly.dormant (by rw [ht]; rfl)
  have hapart : s.apart = false := h.not_apart fun hs => by rw [hs.dormant] at ht; cases ht
  have hnot : (Machine.goDormant t s).apart ≠ true := by
    unfold State.apart at hapart ⊢
    simp only [Bool.or_eq_false_iff] at hapart
    simp [Machine.goDormant, hapart.1.1, hapart.1.2]
  have htracking : (Machine.goDormant t s).tracking = s.tracking := by simp [State.tracking, Machine.goDormant, hmode]
  have ho := h.orderly
  refine (trackerLawful_iff _).2 ⟨fun hread => absurd ?_ hnot, fun ha => absurd ha hnot,
    ⟨fun c => by rw [htracking]; exact ho.states c, ?_, ho.records, ho.cycles, ho.abandoned, ho.queue, ho.calls, ho.once, nofun,
      fun _ => hall⟩, nofun, fun hs => ?_⟩
  · simp [State.apart, hread]
  · exact SeekLawful.congr (s := s) rfl htracking (fun _ _ => rfl) ho.seek
  · have hstart := h.start_of_sweeping hs
    rw [hmode] at hstart; cases hstart

/-! ### Received copies -/

/-- A soft restart of a still tile in START (R167). -/
theorem Still.restartCommon {s : State} (h : Still s) : Still (restartCommon s) := by
  rw [restartCommon_eq]
  have hempty : ∀ c, ChannelEmpty (s.cleared c) := fun c => by
    obtain ⟨_, _, _, hcs, hab, _⟩ := h.empty c
    have habandoned : ((s.released c .absent).chan c).abandoned = none := by
      by_contra hne
      rcases released_abandoned (Option.isSome_iff_ne_none.2 hne) with hold | ⟨r, hr, _⟩
      · rw [hab] at hold; cases hold
      · rw [h.running] at hr; cases hr
    refine ⟨?_, ?_, ?_, ?_, habandoned, rfl⟩ <;> cases c <;> rfl
  refine ⟨by simp [State.restarted, h.running], rfl, rfl, fun c => ?_, h.owed, h.sweeping, h.timer, rfl, rfl, rfl, rfl,
    h.tracking⟩
  cases c
  · exact hempty .A
  · exact hempty .B

/-- A copy at the tracker keeps its laws (R14, R95, R117, R167). -/
theorem TrackerLawful.onCopy {s : State} (h : TrackerLawful s) (origin : Nat) {f : Frame} (hout : s.mode ≠ .outside)
    (hf : ∀ y, f = .yield y → y.level ≤ 3) : TrackerKept (onCopy origin f s) := by
  have hworks : s.tracking = true → s.apart = false := fun ht => h.not_apart fun hs => by rw [hs.tracking] at ht; cases ht
  unfold Machine.onCopy
  split
  · by_cases hm : s.mode = .start
    · have heq : softRestart s = (restartCommon s, none) := by unfold softRestart; rw [if_pos hm]
      rw [heq]
      by_cases hapart : s.apart = true
      · refine ((h.still hapart).restartCommon.lawful fun _ => ?_).kept
        rw [restartCommon_eq]; exact hm
      · refine TrackerLawful.kept (h.working (by simpa using hapart) (restartCommon_steady s).toAround (h.orderly.restartCommon hm) ?_)
        intro hactive
        rw [restartCommon_eq] at hactive
        cases hm.symm.trans hactive
    · have hapart : s.apart = false := h.not_apart fun hs => by
        have hmode := hs.mode
        cases hmo : s.mode <;> simp_all
      have hcommon := (restartCommon_steady s).toAround
      have heq : softRestart s =
          becomeActive ({ restartCommon s with baseline := { (restartCommon s).baseline with owed := 0 } } : State) := by
        unfold softRestart; rw [if_neg hm]
      have hsettled := h.orderly.softRestart hm
      rw [heq] at hsettled ⊢
      refine trackerKept_becomeActive hapart hcommon.inReset hcommon.loader ?_ hsettled
      by_contra hs
      exact hm (h.start_of_sweeping (by rw [← hcommon.sweeping]; simpa using hs))
  · split
    · exact h.settled (hworks (by assumption)) (onBorder_steady ..).toAround (h.orderly.onBorder origin _ h.rested)
    · exact h.kept
  · split
    · rename_i hwork
      have htracking : s.tracking = true := by
        simp only [Bool.and_eq_true] at hwork; exact hwork.1
      exact h.settled (hworks htracking) (penFrame_steady origin s hf).toAround (h.orderly.penFrame htracking origin hf)
    · exact h.kept
  · exact h.kept

/-! ### Every step -/

/-- The sequence in progress goes on to another phase (R16). -/
theorem TrackerLawful.enterPhase {s : State} (h : TrackerLawful s) {r : Running} {seq : Sequence} (ph : Phase)
    (hrun : s.engine.running = some r) (hjob : seq.job = r.seq.job) (hab : seq.abandoned = r.seq.abandoned) :
    TrackerLawful (enterPhase ph seq s) :=
  h.working (h.not_apart_of_running hrun) ⟨rfl, rfl, rfl, .inl rfl⟩
    (h.orderly.less (.of_same_job rfl hrun (enterPhase_running ..) hjob hab) (fun _ => rfl) rfl rfl rfl (.inl rfl))
    (h.rested.congr rfl rfl (fun _ => Iff.rfl) rfl)

/-- What the engine's phases and the detector set is not the tracker's. -/
theorem TrackerLawful.sensed {s : State} (h : TrackerLawful s) (e : Engine) (d : List Detector)
    (he : e.running = s.engine.running) : TrackerLawful { s with engine := e, detectors := d } :=
  h.same rfl rfl rfl he rfl le_rfl (fun _ => rfl) rfl rfl rfl rfl

/-- The laws of the tracker are kept by every meaning. -/
theorem trackerKept : LawKept TrackerKept where
  pending s l hs := TrackerLawful.kept (hs.1.same rfl rfl rfl rfl rfl le_rfl (fun _ => rfl) rfl rfl rfl rfl)
  clock s n hs := TrackerLawful.kept (hs.1.same rfl rfl rfl rfl rfl le_rfl (fun _ => rfl) rfl rfl rfl rfl)
  reset s ends hs := ((still_enterReset ends s).lawful nofun).kept
  leave s st hr hs := by
    have hstill : Still (leaveReset st s) :=
      (hs.1.still (by simp [State.apart, hr])).same rfl rfl le_rfl (fun _ => rfl) rfl rfl rfl rfl rfl rfl
    exact (hstill.lawful fun _ => rfl).kept
  outside s o hread hs := by
    have hstill : Still { loadImage o s with mode := .outside } :=
      ((hs.1.still_of_reading hread).loadImage o).same rfl rfl le_rfl (fun _ => rfl) rfl rfl rfl rfl rfl rfl
    refine (hstill.lawful fun hr => ?_).kept
    rw [show ({ loadImage o s with mode := .outside } : State).loader.readEnds = none from loadImage_readEnds o s] at hr
    cases hr
  sweep s o hr hread hs := (hs.1.beginSweep o hr hread).kept
  settle s r foreign hrun _ hs := TrackerLawful.kept <|
    TrackerLawful.enterPhase (s := unmask r.seq.job.freq foreign s) (hs.1.sensed _ _ rfl) .settle hrun rfl rfl
  listen s r hrun _ hs := TrackerLawful.kept (hs.1.enterPhase .listen hrun rfl rfl)
  damp s r d ps hrun _ _ _ hs := TrackerLawful.kept <|
    TrackerLawful.enterPhase (s := setDetector r.seq.job.freq .masked (s.hearing ps)) (hs.1.sensed _ _ rfl) .damp hrun rfl rfl
  heard s r d ps hrun _ _ _ hs := TrackerLawful.conclude (s := s.hearing ps) (hs.1.sensed _ _ rfl) hrun rfl rfl
  damped s r foreign hrun _ hs :=
    TrackerLawful.conclude (s := unmask r.seq.job.freq foreign s) (hs.1.sensed _ _ rfl) hrun rfl rfl
  rise s f _ hs := TrackerLawful.kept (hs.1.sensed _ _ rfl)
  fall s o f hs := hs.fieldFalls f.val
  grant s o hs := hs.grant
  enqueue s q hs := hs.enqueue
  refresh s t ht hs := by
    have hapart : s.apart = false := hs.1.not_apart fun hstill => by rw [hstill.timer] at ht; cases ht
    exact TrackerLawful.kept (hs.1.working hapart ⟨rfl, rfl, rfl, .inl rfl⟩
      (hs.1.orderly.same rfl rfl (fun _ => rfl) rfl rfl rfl rfl) (hs.1.rested.congr rfl rfl (fun _ => Iff.rfl) rfl))
  dormant s t ht hs := (hs.1.goDormant ht).kept
  seek s t ht hs := by
    have hlaw := hs.1.orderly.seek
    have hback : s.seek.backoff = none := hlaw.2.1 (by rw [ht]; rfl)
    have hstopped : Orderly { s with seek := { s.seek with timer := none } } :=
      hs.1.orderly.setSeek ⟨fun p hp => ⟨(hlaw.1 p hp).1, rfl, hback⟩, nofun, fun hoff => ⟨(hlaw.2.2 hoff).1, rfl, hback⟩⟩
        fun c => hs.1.orderly.seek_of_pass c
    have hsteady := (seek_steady (s := s) (k := { s.seek with timer := none }) rfl).trans (beginPass_steady _)
    refine hs.1.settled (hs.1.not_apart fun hstill => by rw [hstill.seekTimer] at ht; cases ht) hsteady.toAround
      ⟨hstopped.beginPass rfl hback, ?_⟩
    unfold beginPass
    split <;> exact hs.1.rested.congr rfl rfl (fun _ => Iff.rfl) rfl
  backoff s t ht hs := by
    have hlaw := hs.1.orderly.seek
    have htimer : s.seek.timer = none := by
      by_contra hne
      rw [hlaw.2.1 (Option.isSome_iff_ne_none.2 hne)] at ht; cases ht
    have hstopped : Orderly { s with seek := { s.seek with backoff := none } } :=
      hs.1.orderly.setSeek ⟨fun p hp => ⟨(hlaw.1 p hp).1, htimer, rfl⟩, fun _ => rfl, fun hoff => ⟨(hlaw.2.2 hoff).1, htimer, rfl⟩⟩
        fun c => hs.1.orderly.seek_of_pass c
    have hsteady := (seek_steady (s := s) (k := { s.seek with backoff := none }) rfl).trans (beginPass_steady _)
    refine hs.1.settled (hs.1.not_apart fun hstill => by rw [hstill.backoff] at ht; cases ht) hsteady.toAround
      ⟨hstopped.beginPass htimer rfl, ?_⟩
    unfold beginPass
    split <;> exact hs.1.rested.congr rfl rfl (fun _ => Iff.rfl) rfl
  claim s c cl hst hs :=
    hs.1.settled (hs.1.not_apart_of_state (c := c) (by rw [hst]; nofun)) (decideClaim_steady c cl s).toAround
      (hs.1.orderly.decideClaim hst)
  seekAgain s c hst hs := by
    have hpresent : (s.chan c).state ≠ .absent ∧ (s.chan c).state ≠ .seek := by
      rcases hst with ⟨t, hst⟩ | ⟨holder, t, hst⟩ <;> rw [hst] <;> exact ⟨nofun, nofun⟩
    exact hs.1.settled (hs.1.not_apart_of_state hpresent.1) (enterSeek_steady c s).toAround
      (hs.1.orderly.enterSeek hpresent.1 (hs.1.orderly.active hpresent.1 hpresent.2))
  report s c hs := by
    cases hcs : (s.chan c).cycles with
    | none =>
      have heq : reportDue c s = s := by unfold reportDue; rw [hcs]
      rw [heq]; exact hs
    | some cs =>
      have hapart := hs.1.not_apart fun hstill => by rw [(hstill.bare c).2.1] at hcs; cases hcs
      exact hs.1.settled hapart (reportDue_steady c s).toAround ((hs.1.orderly.reportDue c).settled (hs.1.rested.reportDue c))
  barrier s c cy fault hcy hwait hs :=
    hs.1.settled (hs.1.not_apart fun hstill => by rw [(hstill.bare c).current] at hcy; cases hcy)
      (reachBarrier_steady c fault s).toAround (hs.1.orderly.reachBarrier fault hcy hwait)
  border s c cy hcy hborder hs := by
    obtain ⟨cs, hcs, hcur⟩ := current_eq_some hcy
    have hphase : cy.phase = .borderWait := (hs.1.orderly.cycles c cs cy hcs hcur).2.2 hborder
    have hst := (hs.1.orderly.records c).hold_of_current hcy
    exact hs.1.settled (hs.1.not_apart_of_state (c := c) (by rw [hst]; nofun)) (endBorderWait_steady c s).toAround
      (hs.1.orderly.endBorderWait (fun w => hs.1.orderly.unasked (by simp [Channel.called, hst, hcy, hphase])) hs.1.rested)
  yield s c t hst hs :=
    hs.1.settled (hs.1.not_apart_of_state (c := c) (by rw [hst]; nofun))
      ((setState_steady c .hold s).trans (setSpacing_steady fun _ => le_rfl)).toAround (hs.1.orderly.yieldDue hst)
  age s c a ha hs := by
    have hapart := hs.1.not_apart fun hstill => by
      obtain ⟨_, _, _, _, _, harm⟩ := hstill.empty c
      rw [harm] at ha; cases ha
    exact hs.1.settled hapart (ageOut_steady c a s).toAround (hs.1.orderly.ageOut c a hs.1.rested)
  link s l _ ho _ hs := TrackerLawful.kept (hs.1.same rfl rfl rfl rfl rfl ho (fun _ => rfl) rfl rfl rfl rfl)
  buffer s o _ hs := TrackerLawful.kept (hs.1.same rfl rfl rfl rfl rfl le_rfl (fun _ => rfl) rfl rfl rfl rfl)
  copy s k o f hout hf hs := hs.1.onCopy _ hout fun y hy => level_of_readCopy (hy ▸ hf)

/-- Settles O58: every meaning keeps the tracker's order (`Orderly`), and what a tile apart from the work holds. -/
theorem stepsKeepTheTracker : Obligations.StepsKeepTheTracker := by
  intro s t hs ht
  exact (trackerKept.step hs.kept ht).1

end Sys2Proof.Machine
end

section
/-! PROOFS. Reset, the ends of LISTEN, the field detector's rises, the tile's timers and arriving requests (R16 to R28, R32, R33, R45, R94, R168). -/

namespace Sys2Proof.Machine

/-! ### Reset (O4, O60) -/

/-- Settles O4: `enterReset`, and the hold each of the two resets asks for. -/
theorem resetStopsEveryBlock : Obligations.ResetStopsEveryBlock := by
  intro dt s c hc
  have hcleared : ∀ (n : Nat) (u : State) (d : Chan), ChannelEmpty ((enterReset n u).chan d) ∧
      ((enterReset n u).chan d).level = 3 ∧ ((enterReset n u).chan d).lastStrength = 0 := fun n u d =>
    ⟨(still_enterReset n u).empty d, by cases d <;> rfl, by cases d <;> rfl⟩
  rcases hc with rfl | rfl
  · exact ⟨_, rfl, rfl, rfl, rfl, fun _ => rfl, nofun, rfl, rfl, rfl, rfl, rfl, rfl, rfl, rfl, rfl, rfl, rfl, rfl, rfl, rfl, rfl,
      rfl, rfl, hcleared _ _, rfl, rfl, rfl, rfl, rfl, rfl, rfl, rfl, rfl, rfl, rfl, rfl, rfl⟩
  · refine ⟨_, rfl, rfl, rfl, rfl, nofun, fun _ => ?_, rfl, rfl, rfl, rfl, rfl, rfl, rfl, rfl, rfl, rfl, rfl, rfl, rfl, rfl, rfl,
      rfl, rfl, hcleared _ _, rfl, rfl, rfl, rfl, rfl, rfl, rfl, rfl, rfl, rfl, rfl, rfl, rfl⟩
    cases hr : s.inReset <;> simp [enterReset, elapse, heldUntil, hr]

/-- The default settings lie in their ranges (R161). -/
theorem settingsLawful_atPowerOn : SettingsLawful Config.settingsAtPowerOn := by
  unfold SettingsLawful; decide

theorem rangesLawful_reset : RangesLawful State.reset := by
  have hbounded : ChannelBounded Channel.atReset := ⟨le_rfl, nofun, nofun⟩
  exact ⟨List.Pairwise.nil, ⟨Nat.zero_le _, Nat.zero_le _, Nat.zero_le _⟩,
    ⟨Nat.zero_le _, Nat.succ_pos _, .inl rfl, List.length_replicate⟩, hbounded, hbounded, ⟨le_rfl, by decide⟩⟩

theorem ringLawful_reset : RingLawful State.reset := ⟨nofun, nofun, fun _ => rfl⟩

/-- Every index is QUIET and the engine IDLE (R27, R38). -/
theorem maskLawful_reset : MaskLawful State.reset := by
  refine ⟨List.length_replicate, fun f hf => iff_of_false (fun hm => ?_) fun ⟨_, hr, _⟩ => (by cases hr), nofun⟩
  have hquiet : ∀ f < 4, detectorAt f State.reset = .quiet := by decide
  rw [hquiet f hf] at hm; cases hm

/-- Sums and floors are 0 (R38, R53). -/
theorem readingsLawful_reset : ReadingsLawful State.reset := by
  have hlisten : State.reset.settings.listenLength ≤ 32 := by decide
  refine ⟨hlisten, List.length_replicate, fun p hp => ?_, nofun, fun fl hfl => ?_⟩
  · rw [List.eq_of_mem_replicate hp]; exact ⟨Nat.zero_le _, Nat.zero_le _⟩
  · rw [List.eq_of_mem_replicate hfl]; exact Nat.zero_le _

/-- Nothing is on the surface (R73, R150). -/
theorem reportsLawful_reset : ReportsLawful State.reset := by
  have hchannel : ChannelOnSurface State.reset.settings Channel.atReset := ⟨nofun, nofun⟩
  have hown : ∀ r, Frame.report r ∉ State.reset.link.own := fun _ => List.not_mem_nil
  exact ⟨nofun, (quietWhenApart_iff _).2 fun _ => still_reset, settingsLawful_atPowerOn, nofun, nofun, nofun, hchannel, hchannel,
    fun r hr => absurd hr (hown r)⟩

/-- Settles O60: the laws of the state after reset, one by one; the tracker's are those of a still tile (`Still.lawful`). -/
theorem resetIsLawful : Obligations.ResetIsLawful :=
  ⟨rangesLawful_reset, ringLawful_reset, maskLawful_reset, readingsLawful_reset, still_reset.lawful nofun, reportsLawful_reset⟩

/-! ### LISTEN_END and FIELD_RISE (O10, O11, O12) -/

/-- The end of a driven sequence's listen is DAMP (R16, R27). -/
theorem listenOver_of_driven {seq : Sequence} (hd : seq.job.driven = true) (fall : Option Freq) (s : State) :
    listenOver seq fall s = enterDamp seq s := if_pos hd

/-- DAMP takes 4 µs with its index masked (R16, R22, R27). -/
theorem enterDamp_eq (seq : Sequence) (s : State) : enterDamp seq s =
    { s with
      detectors := s.detectors.set seq.job.freq .masked
      engine := { s.engine with running := some { phase := .damp, ends := s.now + usec 4, seq := seq } } } := rfl

/-- Settles O10: the periods of a whole listen path by path (`listenSums_eq_mapIdx`), then `enterDamp`. -/
theorem listenAccumulatesThenDamps : Obligations.ListenAccumulatesThenDamps := by
  intro periods fall s r hr hrun hp hd hl hv h16
  have hsum : listenSums s.engine.paths periods = s.engine.paths.mapIdx (Path.heard periods) :=
    listenSums_eq_mapIdx _ _ fun v hm => by rw [h16, hv v hm]
  have hexec : exec (.listenEnd periods fall) s = .next (listenOver r.seq fall (sampleFor periods (reach r.ends s))) := by
    simp [exec, execListenEnd, unlessReset, hr, phaseEnds_of_running _ hrun hp, listenEnds]
  rw [hexec, listenOver_of_driven hd, enterDamp_eq]
  simp [sampleFor, ← hl, hsum, reach]

/-- Settles O12: the rise ends the listen with what it found (`exec_fieldRise_of_finds`), and a driven sequence goes into DAMP. -/
theorem riseDisturbsADrivenListen : Obligations.RiseDisturbsADrivenListen := by
  intro dt f l fall s r hr hrun hf hd hq hfinds h16
  rw [exec_fieldRise_of_finds dt fall hr hrun hf hq hfinds h16,
    listenOver_of_driven (seq := { r.seq with disturbed := true }) hd, enterDamp_eq]
  simp [hf, List.set_set]

/-- A rise at another frequency than that of the sequence in progress, or in DRIVE or DAMP, is not its matter (R28). -/
theorem riseReported_of_elsewhere {f : Nat} {s : State}
    (h : ∀ r, s.engine.running = some r → r.seq.job.freq ≠ f ∨ r.phase = .drive ∨ r.phase = .damp) (l : Sampled)
    (fall : Option Freq) : riseReported f l fall s = s := by
  unfold riseReported
  split
  · rename_i r hrun
    split
    · rename_i hf
      rcases (h r hrun).resolve_left (not_not.2 hf) with hp | hp <;> rw [hp]
    · rfl
  · rfl

/-- Settles O11: a rise is reported in QUIET alone, and then `riseReported_of_elsewhere`. -/
theorem riseElsewhereIsOnlyRecorded : Obligations.RiseElsewhereIsOnlyRecorded := by
  intro dt f l fall s hr h
  have hexec : exec (.fieldRise dt f l fall) s = .next (fieldRises f.val l fall (elapse dt s)) := by
    simp [exec, execFieldRise, unlessReset, hr]
  have hat : detectorAt f.val (elapse dt s) = detectorAt f.val s := rfl
  rw [hexec]
  unfold fieldRises
  rw [hat]
  by_cases hq : detectorAt f.val s = .quiet
  · have helsewhere := h.resolve_right (not_not.2 hq)
    rw [if_pos hq, if_pos hq, riseReported_of_elsewhere (s := setDetector f.val .present (elapse dt s)) helsewhere]
    rfl
  · rw [if_neg hq, if_neg hq]
    rfl

/-! ### The tile's timers (O26) -/

/-- Settles O26: the pending count stops at 8, and DORMANT is entered with an even counter. -/
theorem tileTimersExpire : Obligations.TileTimersExpire := by
  intro s t hr
  refine ⟨fun ht => ?refresh, fun ht => ?dormant⟩
  case refresh =>
    have howed : (if s.baseline.owed < 8 then s.baseline.owed + 1 else s.baseline.owed) =
        max s.baseline.owed (min 8 (s.baseline.owed + 1)) := by split <;> omega
    have hexec : exec .refreshTimerExpiry s = .next (refreshDue t (reach t s)) := by
      simp [exec, execRefreshTimerExpiry, unlessReset, hr, expires, ht]
    rw [hexec, refreshDue, reach_baseline, howed]; rfl
  case dormant =>
    have hexec : exec .dormantTimerExpiry s = .next (goDormant t (reach t s)) := by
      simp [exec, execDormantTimerExpiry, unlessReset, hr, expires, ht]
    rw [hexec]; rfl

/-! ### Requests that arrive (O15) -/

/-- A request that arrives at a running engine waits; an idle engine grants (R32, R33). -/
theorem submit_eq (r : Request) (s : State) : submit (some r) s =
    if s.engine.running.isSome then { s with queue := enqueue r s.queue } else grant { s with queue := enqueue r s.queue } := by
  cases hrun : s.engine.running <;> simp [submit, grant, hrun]

/-- A request whose requester does not wait joins the end (R32). -/
theorem enqueue_of_new {r : Request} {q : List Request} (h : ∀ x ∈ q, ¬ SameRequester r x) : enqueue r q = q ++ [r] := by
  have hnone : ¬ (q.any (sameRequester r) = true) := by
    rw [List.any_eq_true]
    rintro ⟨x, hx, hsame⟩
    exact h x hx ((sameRequester_iff r x).1 hsame)
  exact if_neg hnone

/-- Other requesters' requests stay as they are (R32). -/
theorem map_replace_of_new {r : Request} {q : List Request} (h : ∀ x ∈ q, ¬ SameRequester r x) :
    (q.map fun x => if sameRequester r x then r else x) = q := by
  have hkeep : ∀ x ∈ q, (if sameRequester r x then r else x) = id x := fun x hx =>
    if_neg fun hsame => h x hx ((sameRequester_iff r x).1 hsame)
  rw [List.map_congr_left hkeep, List.map_id]

/-- A request takes the place of the one of its requester (R32). -/
theorem enqueue_of_waiting {r x : Request} {before after : List Request} (hsame : SameRequester r x)
    (h : ∀ y ∈ before ++ after, ¬ SameRequester r y) : enqueue r (before ++ x :: after) = before ++ r :: after := by
  have hx : sameRequester r x = true := (sameRequester_iff r x).2 hsame
  have hbefore := map_replace_of_new fun y hy => h y (List.mem_append_left _ hy)
  have hafter := map_replace_of_new fun y hy => h y (List.mem_append_right _ hy)
  unfold enqueue
  rw [if_pos (by simp [hx]), List.map_append, List.map_cons, hbefore, hafter, if_pos hx]

/-- Settles O15: `enqueue` in its two cases, and a fall taken at the moment itself. -/
theorem requestWaitsOrIsGranted : Obligations.RequestWaitsOrIsGranted := by
  refine ⟨fun r s hnew => ?_, fun r x before after s hq hsame hothers => ?_, fun f s hr => ?_⟩
  · rw [submit_eq, enqueue_of_new hnew]
  · rw [submit_eq, hq, enqueue_of_waiting hsame hothers]
  · exact exec_fieldFall 0 f hr

end Sys2Proof.Machine
end

section
/-! PROOFS. The drive level after a cycle, and the results of tip sequences, of abandoned and of disturbed ones (R26, R28, R37, R112 to R122). -/

namespace Sys2Proof.Machine

/-! ### The drive level (O53) -/

/-- Weak or not, an estimate adjusts the level alike (R37, R75, R79). -/
theorem estimate_level (set : Settings) (c : Chan) (level : Nat) (r : CycleRecord) (pen : Pen) :
    (estimate set c level r pen).level = (adjustLevel set level r).1 ∧
      (estimate set c level r pen).contents.flags.saturated = (adjustLevel set level r).2 := by
  unfold estimate
  split <;> exact ⟨rfl, rfl⟩

/-- A peak examined is clipped: of the tip, or of a collar that was built (R37). -/
theorem anyPeakClipped_iff (r : CycleRecord) : anyPeakClipped r = true ↔
    (peakEntry r.tipX).clipped = true ∨ (peakEntry r.tipY).clipped = true ∨
      (r.collarBuilt = true ∧ ((peakEntry r.collarX).clipped = true ∨ (peakEntry r.collarY).clipped = true)) := by
  unfold anyPeakClipped examined
  cases r.collarBuilt <;> simp

/-- Settles O53: the three branches of `adjustLevel`. -/
theorem driveLevelFollowsThePeaks : Obligations.DriveLevelFollowsThePeaks := by
  intro set c level r pen e clipped faint
  obtain ⟨hlevel, hsaturated⟩ := estimate_level set c level r pen
  have hfaint : faint ∧ level < 3 ↔
      (decide (max (peakEntry r.tipX).amp (peakEntry r.tipY).amp < set.agcTarget) && decide (level < 3)) = true := by
    simp [faint]
  rw [show e.level = (adjustLevel set level r).1 from hlevel,
    show e.contents.flags.saturated = (adjustLevel set level r).2 from hsaturated]
  refine ⟨fun hc => ?_, fun hc => ?_⟩
  · have hpeak : anyPeakClipped r = true := (anyPeakClipped_iff r).2 hc
    simp [adjustLevel, hpeak]
  · have hpeak : ¬ anyPeakClipped r = true := fun h => hc ((anyPeakClipped_iff r).1 h)
    unfold adjustLevel
    rw [if_neg hpeak]
    by_cases hf : faint ∧ level < 3
    · rw [if_pos hf, if_pos (hfaint.1 hf)]; exact ⟨rfl, rfl⟩
    · rw [if_neg hf, if_neg (fun h => hf (hfaint.2 h))]; exact ⟨rfl, rfl⟩

/-! ### The end of a sequence (O16, O22) -/

/-- DAMP_END delivers to an engine in IDLE with the mask lifted, and then takes a fall and grants (R22, R26, R27, R35). -/
theorem exec_dampEnd_settles {s : State} {r : Running} (foreign : Bool) (fall : Option Freq) (hr : s.inReset = false)
    (hrun : s.engine.running = some r) (hp : r.phase = .damp) :
    exec (.dampEnd foreign fall) s = .next (settleEnd fall (conclude r.seq (s.dampedOut r foreign))) := by
  have hrun' : (unmask r.seq.job.freq foreign (reach r.ends s)).engine.running = some r := hrun
  rw [exec_dampEnd foreign fall hr hrun hp, endSequence_eq fall hrun' rfl]
  rfl

/-- A sequence that is not abandoned delivers to the block that asked for it (R26). -/
theorem conclude_of_kept {seq : Sequence} (h : seq.abandoned = false) (s : State) : conclude seq s = deliver seq s := by
  simp [conclude, h]

/-- An abandoned sequence's result is discarded (R26). -/
theorem conclude_of_abandoned {seq : Sequence} (h : seq.abandoned = true) (s : State) : conclude seq s = (discard seq s, none) := by
  simp [conclude, h]

/-- The windows of the channel's cycle record are those of its requests (R115, R116). -/
theorem cycleWindows_of_record {s : State} {c : Chan} {rec : CycleRecord} (h : (s.chan c).record = some rec) :
    cycleWindows s c = (rec.windowX, rec.windowY) := by simp [cycleWindows, h]

/-- A held report ends the cycle: the REPORT, and then the yield test (R92, R115, R119). -/
theorem endHeld_eq {s : State} {c : Chan} {cs : CycleState} {cy : Cycle} {pen : Pen} (hcs : (s.chan c).cycles = some cs)
    (hcy : cs.current = some cy) (hpen : (s.chan c).pen = some pen) :
    endHeld c s =
      (yieldTest c (heldContents (s.chan c).level pen) (cs.number.getD 0) cs.spacing
        ((queueFrame (.report (completeReport c (heldContents (s.chan c).level pen) cs cy true s.loader.imageDefault)) s).setChan c
          { s.chan c with cycles := some { cs with current := none, overrun := 0 } }), none) := by
  have hheld : endHeld c s = finishCycle c (heldContents (s.chan c).level pen) true false s := by
    unfold endHeld; simp only [hpen]
  rw [hheld]
  unfold finishCycle
  simp only [hcs, hcy]
  rw [modChan_eq, queueFrame_chan]
  simp only [Bool.false_eq_true, if_false]
  rfl

/-- Settles O16: `exec_dampEnd_settles`, and the three branches of `tipResult` in the phase TIP. -/
theorem tipResultDecides : Obligations.TipResultDecides := by
  intro foreign fall s r c cs cy rec pen n hr hrun hp hjob hkept hcs hcy hphase hn hrec hpen b ch
  have hchan : b.chan c = s.chan c := by cases c <;> rfl
  have hcs' : (b.chan c).cycles = some cs := by rw [hchan, hcs]
  have hcur : (b.chan c).current = some cy := by simp [Channel.current, hcs', hcy]
  have hdeliver : conclude r.seq b = tipResult c r.seq b := by rw [conclude_of_kept hkept, deliver, hjob]
  rw [exec_dampEnd_settles foreign fall hr hrun hp, hdeliver]
  refine ⟨fun hd => ?formed, fun hd hat => ?again, fun hd hat => ?held⟩
  case formed =>
    have hresult : tipResult c r.seq b = (b.setChan c
        { s.chan c with
          record := some (formTip b c r.seq.windowX r.seq.windowY rec)
          cycles := some { cs with current := some { cy with phase := .collar } } },
        some { ch := c, ask := .collar rec.windowX rec.windowY }) := by
      have hformed : ((modRecord c (formTip b c r.seq.windowX r.seq.windowY) b).chan c).cycles = some cs := by
        rw [modRecord_chan_same]; exact hcs'
      unfold tipResult
      simp only [hcur, hphase, hd, ne_eq, not_true_eq_false, if_false, Bool.not_false, if_true]
      rw [modCycle_eq _ hformed hcy, askCollar, cycleWindows_of_record (rec := formTip b c r.seq.windowX r.seq.windowY rec)]
      · rw [modRecord_chan_same, hchan, hrec, modRecord, modChan_eq, setChan_setChan]; rfl
      · rw [setChan_chan_same, modRecord_chan_same, hchan, hrec]; rfl
    rw [hresult]; rfl
  case again =>
    have hresult : tipResult c r.seq b = (b.setChan c
        { s.chan c with cycles := some { cs with current := some { cy with attempt := 2 } } },
        some { ch := c, ask := .tip rec.windowX rec.windowY }) := by
      unfold tipResult
      simp only [hcur, hphase, hd, hat, ne_eq, not_true_eq_false, if_false, Bool.not_true, Bool.false_eq_true, if_true]
      rw [modCycle_eq _ hcs' hcy, hchan, askTip, cycleWindows_of_record (rec := rec) (by rw [setChan_chan_same]; exact hrec)]
      simp only [hphase]
    rw [hresult]; rfl
  case held =>
    intro report
    have hresult : tipResult c r.seq b = endHeld c b := by
      unfold tipResult
      simp only [hcur, hphase, hd, hat, ne_eq, not_true_eq_false, if_false, Bool.not_true, Bool.false_eq_true]
    have hreport : completeReport c (heldContents (s.chan c).level pen) cs cy true b.loader.imageDefault = report := by
      unfold completeReport
      rw [hn]
      rfl
    rw [hresult, endHeld_eq hcs' hcy (by rw [hchan]; exact hpen), hchan, hreport, hn]
    rfl

/-! ### Results that form nothing (O22) -/

/-- The sequence of an abandoned cycle ends, and no first cycle waited for it (R120). -/
theorem abandonedEnds_of_no_first {c : Chan} {s : State}
    (h : (s.chan c).state ≠ .hold ∨ ∃ cs, (s.chan c).cycles = some cs ∧ cs.number ≠ none) :
    abandonedEnds c s = s.setChan c { s.chan c with abandoned := none } := by
  have heq : s.modChan c (fun ch => { ch with abandoned := none }) = s.setChan c { s.chan c with abandoned := none } := rfl
  unfold abandonedEnds
  simp only [heq]
  split
  · rename_i cs hst hcs
    rw [setChan_chan_same] at hst hcs
    rcases h with hne | ⟨cs', hcs', hn⟩
    · exact absurd hst hne
    · rw [show (s.chan c).cycles = some cs from hcs] at hcs'
      cases hcs'
      exact if_neg (by simpa using hn)
  · rfl

/-- The sequence of an abandoned cycle ends, and the first cycle that waited for it starts (R112, R120). -/
theorem abandonedEnds_of_first {c : Chan} {s : State} {cs : CycleState} {pen : Pen} (hst : (s.chan c).state = .hold)
    (hcs : (s.chan c).cycles = some cs) (hn : cs.number = none) (hpen : (s.chan c).pen = some pen) :
    abandonedEnds c s = (s.setChan c { s.chan c with abandoned := none }).noticed c cs.firstNumber cs pen cs.byTake := by
  have heq : s.modChan c (fun ch => { ch with abandoned := none }) = s.setChan c { s.chan c with abandoned := none } := rfl
  have hstart := startCycle_eq_noticed c (s.setChan c { s.chan c with abandoned := none }) cs pen
    (by rw [setChan_chan_same]; exact hcs) (by rw [setChan_chan_same]; exact hpen)
  have hnumber : cs.nextNumber = cs.firstNumber := by simp [CycleState.nextNumber, hn]
  unfold abandonedEnds
  simp only [heq]
  split
  · rename_i cs' _ hcs'
    rw [setChan_chan_same] at hcs'
    cases hcs.symm.trans hcs'
    rw [if_pos (by rw [hn]; rfl), hstart, hnumber, hn]
    simp
  · rename_i hno
    exact (hno cs (by rw [setChan_chan_same]; exact hst) (by rw [setChan_chan_same]; exact hcs)).elim

/-- An abandoned tracking sequence ends its cycle (R26, R120). -/
theorem discard_of_tracking {seq : Sequence} {c : Chan} (h : seq.job = .tip c ∨ seq.job = .collar c) (s : State) :
    discard seq s = abandonedEnds c s := by
  rcases h with h | h <;> simp [discard, h]

/-- LISTEN_END of an undriven sequence delivers to an engine in IDLE with the periods heard (R17, R18, R24). -/
theorem exec_listenEnd_settles {s : State} {r : Running} {periods : List Period} (fall : Option Freq) (hr : s.inReset = false)
    (hrun : s.engine.running = some r) (hp : r.phase = .listen) (hd : r.seq.job.driven = false)
    (h16 : s.engine.paths.length = 16) (hl : periods.length = s.settings.listenLength) (hv : ∀ v ∈ periods, v.length = 16) :
    exec (.listenEnd periods fall) s = .next (settleEnd fall (conclude r.seq (s.heardOut r periods))) := by
  obtain ⟨hexec, hheard⟩ := exec_listenEnd_undriven periods fall hr hrun hp hd h16 hl hv
  have hrun' : (sampleFor periods (reach r.ends s)).engine.running = some r := hrun
  have hend := endSequence_eq (seq := r.seq) fall hrun' rfl
  rw [hheard] at hend
  rw [hexec, ← hend]
  rfl

/-- A rise at an undriven sequence's frequency ends it, and delivers to an engine in IDLE what was sampled (R17, R18, R28). -/
theorem exec_fieldRise_settles {s : State} {r : Running} {f : Freq} {l : Sampled} (dt : Nat) (fall : Option Freq)
    (hr : s.inReset = false) (hrun : s.engine.running = some r) (hf : r.seq.job.freq = f.val) (hd : r.seq.job.driven = false)
    (hq : detectorAt f.val s = .quiet) (h : RiseFinds l r s) (h16 : s.engine.paths.length = 16) :
    exec (.fieldRise dt f l fall) s =
      .next (settleEnd fall (conclude { r.seq with disturbed := true } (s.cutOut dt f.val l))) := by
  rw [exec_fieldRise_of_finds dt fall hr hrun hf hq h h16]
  unfold listenOver
  rw [if_neg (by simp [hd])]
  exact congrArg Host.Outcome.next (endSequence_eq (r := r) fall hrun rfl)

/-- A baseline listen that is abandoned or disturbed writes nothing and is not counted (R49, R50). -/
theorem conclude_of_lost_baseline {seq : Sequence} {slot : Nat} (hjob : seq.job = .baseline slot)
    (h : seq.abandoned = true ∨ seq.disturbed = true) (s : State) : conclude seq s = (s, none) := by
  by_cases hab : seq.abandoned = true
  · simp [conclude_of_abandoned hab, discard, hjob]
  · simp [conclude_of_kept (by simpa using hab), deliver, hjob, baselineResult, h.resolve_left hab]

/-- A capture that is abandoned, or whose record has ended or been replaced, forms nothing (R122, log 14). -/
theorem conclude_of_lost_capture {seq : Sequence} {c : Chan} {k : Coil} {s : State} (hjob : seq.job = .capture c k)
    (h : seq.abandoned = true ∨ ∀ a, (s.chan c).arming = some a → a.capturing = false) : conclude seq s = (s, none) := by
  by_cases hab : seq.abandoned = true
  · simp [conclude_of_abandoned hab, discard, hjob]
  · have hnothing : captureResult c k seq s = s := by
      unfold captureResult
      split
      · rename_i a ha
        simp [h.resolve_left hab a ha]
      · rfl
    simp [conclude_of_kept (by simpa using hab), deliver, hjob, hnothing]

/-- A disturbed capture leaves its coil uncaptured (R122). -/
theorem conclude_of_disturbed_capture {seq : Sequence} {c : Chan} {k : Coil} {s : State} {a : Arming}
    (hjob : seq.job = .capture c k) (hab : seq.abandoned = false) (hd : seq.disturbed = true)
    (ha : (s.chan c).arming = some a) (hcap : a.capturing = true) :
    conclude seq s = (s.setChan c { s.chan c with arming := some { a with capturing := false } }, none) := by
  rw [conclude_of_kept hab, deliver, hjob]
  simp only [captureResult, ha, hcap, hd]
  rfl

/-- Settles O22: what `conclude` makes of such sequences, at DAMP_END, LISTEN_END and FIELD_RISE. -/
theorem abandonedAndDisturbedResultsFormNothing : Obligations.AbandonedAndDisturbedResultsFormNothing := by
  refine ⟨fun foreign fall s r hr hrun hp hab => ?damped, fun fall s r hr hrun hd h16 => ?undriven⟩
  case damped =>
    intro b
    have hchan : ∀ c, b.chan c = s.chan c := fun c => by cases c <;> rfl
    rw [exec_dampEnd_settles foreign fall hr hrun hp, conclude_of_abandoned hab]
    refine ⟨fun c hjob => ?_, fun c hjob h => ?_, fun c cs pen hjob hst hcs hn hpen => ?_⟩
    · have hnothing : discard r.seq b = b := by rcases hjob with hjob | hjob <;> simp [discard, hjob]
      rw [hnothing]; rfl
    · rw [discard_of_tracking hjob, abandonedEnds_of_no_first (by rw [hchan]; exact h), hchan]; rfl
    · rw [discard_of_tracking hjob, abandonedEnds_of_first (by rw [hchan]; exact hst) (by rw [hchan]; exact hcs) hn
        (by rw [hchan]; exact hpen), hchan]
      rfl
  case undriven =>
    intro formsNothing
    have hforms : ∀ (i : Instr) (d : Bool) (b : State), (∀ c, b.chan c = s.chan c) →
        exec i s = .next (settleEnd fall (conclude { r.seq with disturbed := d } b)) → formsNothing i d b := by
      intro i d b hchan hexec
      refine ⟨fun slot hjob h => ?_, fun c k hjob h => ?_, fun c k a hjob hab hdis ha hcap => ?_⟩
      · rw [hexec, conclude_of_lost_baseline (seq := { r.seq with disturbed := d }) hjob h]; rfl
      · rw [hexec, conclude_of_lost_capture (seq := { r.seq with disturbed := d }) hjob (by rw [hchan]; exact h)]; rfl
      · rw [hexec, conclude_of_disturbed_capture (seq := { r.seq with disturbed := d }) hjob hab hdis (by rw [hchan]; exact ha) hcap,
          hchan]
        rfl
    refine ⟨fun periods hp hl hv => hforms _ _ _ (fun c => by cases c <;> rfl) ?_, fun dt f l hf hq hfinds =>
      hforms _ _ _ (fun c => by cases c <;> rfl) (exec_fieldRise_settles dt fall hr hrun hf hd hq hfinds h16)⟩
    exact exec_listenEnd_settles fall hr hrun hp hd h16 hl hv

end Sys2Proof.Machine
end

section
/-! PROOFS. The decision of a claim, and RESTART (R104, R105, R112, R167). -/

namespace Sys2Proof.Machine

/-! ### The decision of a claim (O28) -/

/-- The own sighting wins when there is no other, or a weaker one, or an equal one of a higher index (R104, R105). -/
theorem wins_iff (own : Nat) (cl : Claim) : cl.wins own = true ↔ cl.best = none ∨
    ∃ st origin, cl.best = some (st, origin) ∧ (st < cl.strength ∨ (st = cl.strength ∧ own < origin)) := by
  unfold Claim.wins
  cases cl.best with
  | none => simp
  | some b =>
    obtain ⟨st, origin⟩ := b
    simp [stronger, @eq_comm _ cl.strength st]

/-- A channel that claims moves on with its state alone (R95). -/
theorem moveTo_of_claim {c : Chan} {s : State} {cl : Claim} (hst : (s.chan c).state = .claim cl) (st : ChanState) :
    moveTo c st s = s.entered c st := by
  rw [moveTo_eq_moved c st s (by rw [hst]; exact ⟨nofun, nofun, nofun⟩), State.moved, if_neg (by rw [hst]; nofun)]

/-- The state a won claim leaves before the first cycle (R57, R74, R105, R110, R111, R125). -/
def State.claimed (c : Chan) (cl : Claim) (s : State) : State :=
  { s with dormant := none }.setChan c
    { s.chan c with
      state := .hold, level := 3, lastStrength := cl.strength, pen := some (penOfClaim cl), record := none
      cycles := some (newCycles s.settings s.now 0 false), arming := none }

theorem enterHold_of_claim {c : Chan} {s : State} {cl : Claim} (hst : (s.chan c).state = .claim cl) :
    enterHold c (penOfClaim cl) 3 cl.strength 0 false s = s.claimed c cl := by
  unfold enterHold
  rw [moveTo_of_claim hst]
  cases c <;> rfl

/-- A claim is decided: lost, it defers; won, it holds and starts its first cycle unless an abandoned one runs on (R105, R107, R112). -/
theorem decideClaim_eq {c : Chan} {s : State} {cl : Claim} (hst : (s.chan c).state = .claim cl) :
    decideClaim c cl s =
      if cl.wins (ownIndex s.straps) = true then
        match (s.chan c).abandoned with
        | none => (s.claimed c cl).noticed c 0 (newCycles s.settings s.now 0 false) (penOfClaim cl) false
        | some _ => s.claimed c cl
      else s.entered c (.defer (s.now + msec 5)) := by
  unfold decideClaim
  split
  · rw [enterHold_of_claim hst]
    have hab : ((s.claimed c cl).chan c).abandoned = (s.chan c).abandoned := by cases c <;> rfl
    unfold startFirst
    rw [hab]
    cases (s.chan c).abandoned with
    | none =>
      exact startCycle_eq_noticed c (s.claimed c cl) (newCycles s.settings s.now 0 false) (penOfClaim cl)
        (by rw [State.claimed, setChan_chan_same]) (by rw [State.claimed, setChan_chan_same])
    | some _ => rfl
  · exact moveTo_of_claim hst _

/-- A claim's timer plays no part in its decision. -/
theorem decideClaim_of_timer {c : Chan} {s : State} {cl : Claim} (t : Nat) (hst : (s.chan c).state = .claim cl) :
    decideClaim c { cl with timer := t } (s.setChan c { s.chan c with state := .claim { cl with timer := t } }) =
      decideClaim c cl s := by
  have hst' : ((s.setChan c { s.chan c with state := .claim { cl with timer := t } }).chan c).state = .claim { cl with timer := t } := by
    rw [setChan_chan_same]
  rw [decideClaim_eq hst, decideClaim_eq hst']
  cases c <;> rfl

/-- CLAIM_TIMER_EXPIRY decides at the moment of the timer (R105). -/
theorem exec_claimTimerExpiry {s : State} {c : Chan} {cl : Claim} (hr : s.inReset = false) (hst : (s.chan c).state = .claim cl) :
    exec (.claimTimerExpiry c) s = .next (decideClaim c cl (reach cl.timer s)) := by
  simp [exec, execClaimTimerExpiry, unlessReset, hr, claimDue, hst]

/-- A channel octet names at most one channel (R155). -/
theorem readChan_eq_some_iff (v : Nat) (c : Chan) : readChan v = some c ↔ v = chanIndex c := by
  refine ⟨readChan_eq_some, ?_⟩
  rintro rfl; cases c <;> rfl

/-- An own SIGHTING that returns reaches the claim of the channel it names (R105, R144). -/
theorem exec_sightingReturn {s : State} (dt : Nat) {rest : List Byte} (hr : s.inReset = false) (hu : s.link.up = true)
    (h3 : 3 ≤ rest.length) (h22 : rest.length ≤ 22)
    (hc : crcGood (kindByte .sighting :: byteOf (ownIndex s.straps) :: rest) = true) :
    exec (.sightingReturn dt rest) s = .next
      (match readChan (octetAt (kindByte .sighting :: byteOf (ownIndex s.straps) :: rest) 3) with
        | some c => sightingReturns c (s.heardLink dt)
        | none => s.heardLink dt) := by
  have hexec : exec (.sightingReturn dt rest) s = .next (ownArrives (kindByte .sighting) dt rest s) := rfl
  rw [hexec, ownArrives_eq_ownReturns _ dt rest s hr hu h3 h22 hc]
  congr 1
  have hkind : kindOf ((kindByte .sighting :: byteOf (ownIndex s.straps) :: rest).getD 0 0) = some .sighting := by
    rw [kindOf_eq_some_iff]; rfl
  unfold ownReturns
  rw [hkind]
  simp only [onReturn]
  cases readChan (octetAt (kindByte .sighting :: byteOf (ownIndex s.straps) :: rest) 3) <;> rfl

/-- Settles O28: `decideClaim_eq` at the claim timer's moment and at the return's, and returns that find no claim. -/
theorem claimIsDecided : Obligations.ClaimIsDecided := by
  refine ⟨fun s c cl hr hst => ?decided, fun s dt rest hr hu h3 h22 => ?passed⟩
  case decided =>
    intro own won b pen cycles held
    have hwins : cl.wins (ownIndex (reach cl.timer s).straps) = true ↔ won := wins_iff _ cl
    have hexec := (exec_claimTimerExpiry hr hst).trans (congrArg _ (decideClaim_eq (s := reach cl.timer s) (by simpa using hst)))
    have habandoned : ((reach cl.timer s).chan c).abandoned = (s.chan c).abandoned := by simp
    refine ⟨fun hnot => ?_, fun hwon hnone => ?_, fun hwon hsome => ?_, fun dt rest hu h3 h22 hcrc hchan => ?_⟩
    · rw [hexec, if_neg fun h => hnot (hwins.1 h)]
      cases c <;> rfl
    · rw [hexec, if_pos (hwins.2 hwon), habandoned, hnone]
      cases c <;> rfl
    · obtain ⟨cy, hcy⟩ := Option.ne_none_iff_exists'.1 hsome
      rw [hexec, if_pos (hwins.2 hwon), habandoned, hcy]
      cases c <;> rfl
    · have hclaim : ((s.heardLink dt).chan c).state = .claim cl := by cases c <;> exact hst
      have hsame : (s.heardLink dt).chan c = s.chan c := by cases c <;> rfl
      have hreturn : exec (.sightingReturn dt rest) s = .next (decideClaim c cl (s.heardLink dt)) := by
        have hname : readChan (octetAt (kindByte .sighting :: byteOf (ownIndex s.straps) :: rest) 3) = some c :=
          (readChan_eq_some_iff _ c).2 hchan
        rw [exec_sightingReturn dt hr hu h3 h22 hcrc, hname]
        simp only [sightingReturns, hclaim]
      refine ⟨_, hreturn, ?_⟩
      rw [← hsame, exec_claimTimerExpiry (cl := { cl with timer := s.now + dt }) (by rw [setChan_inReset]; exact hr) (by rw [setChan_chan_same]),
        ← decideClaim_of_timer (s.now + dt) hclaim]
      congr 2
      cases c <;> simp [reach, State.heardLink, State.setChan]
  case passed =>
    intro o hcrc hnone
    rw [exec_sightingReturn dt hr hu h3 h22 hcrc]
    cases hname : readChan (octetAt o 3) with
    | none => rfl
    | some d =>
      have hstate : ∀ k, ((s.heardLink dt).chan d).state ≠ .claim k := fun k =>
        (show (s.heardLink dt).chan d = s.chan d by cases d <;> rfl) ▸ hnone d k (readChan_eq_some hname)
      have hpassed : sightingReturns d (s.heardLink dt) = s.heardLink dt := by
        unfold sightingReturns
        split
        · rename_i k hk
          exact absurd hk (hstate k)
        · rfl
      exact congrArg Host.Outcome.next hpassed

/-! ### RESTART (O41) -/

/-- A RESTART that reaches a tile with room is buffered, and its copy goes to the tracker unless the tile is OUTSIDE (R146, R148, R167). -/
theorem exec_restart {o : List Byte} {s : State} (dt : Nat) (hr : s.inReset = false) (hu : s.link.up = true)
    (hb : s.link.buffer.length < 2) (hc : crcGood o = true) (hk : frameKind o = some .restart)
    (ho : originOf o ≠ ownIndex s.straps) (hh : hopOf o < 31) :
    exec (.restart dt (o.drop 1)) s = .next
      (if s.mode = .outside then s.copied dt o else settleReaction (softRestart (s.copied dt o))) := by
  obtain ⟨hoctets, hlength⟩ := frameKind_eq_some hk
  have hexec : exec (.restart dt (o.drop 1)) s = .next (kindArrives .restart dt (o.drop 1) s) := rfl
  rw [hexec, kindArrives, ← hoctets]
  simp only [unlessReset, elapse_inReset, hr, Bool.false_eq_true, if_false]
  rw [receiveOctets_eq_receiveFrame o dt s hu (by rw [hlength]; decide) (by rw [hlength]; decide),
    receiveFrame_of_room hc (s := s.heardLink dt) ho hh hb]
  unfold handCopy
  rw [hk]
  rfl

/-- A tile with every enabled channel out of state and no pass becomes ACTIVE with a pass of channel A (R95, R96, R109). -/
theorem becomeActive_eq {s : State} (hpass : s.seek.pass = none) (hturn : s.seek.turn = .A) :
    becomeActive s =
      ({ s with
          mode := .active
          chanA := { s.chanA with state := .seek }
          chanB := if s.settings.enableB then { s.chanB with state := .seek } else s.chanB
          dormant := some (s.now + msec 10000)
          seek := { s.seek with pass := some { ch := .A, stage := .x 0 }, turn := .B } },
        some { ch := .A, ask := .seekX 0 }) := by
  unfold becomeActive
  cases hB : s.settings.enableB <;>
    simp [setState, State.modChan, State.setChan, State.chan, timeDormant, State.allSeek, State.inSeek, hB, beginPass, passChannel,
      State.seeks, State.enabled, hpass, hturn, otherChan, xGroup, xOrder]

/-- Settles O41: `restartCommon_eq`, and `becomeActive_eq` outside START. -/
theorem restartStartsAfresh : Obligations.RestartStartsAfresh := by
  intro dt o s hr hu hb hc hk ho hh b cleared quiet
  have hexec := exec_restart dt hr hu hb hc hk ho hh
  have hquiet : restartCommon b = quiet := restartCommon_eq b
  refine ⟨fun hm => ?start, fun hm => ?active, fun hm => ?outside⟩
  case start =>
    have hstart : b.mode = .start := hm
    rw [hexec, if_neg (by rw [hm]; nofun), softRestart, if_pos hstart, hquiet]
    rfl
  case active =>
    have hstart : b.mode ≠ .start := fun h => by rcases hm with hm | hm <;> cases hm.symm.trans h
    rw [hexec, if_neg (by rcases hm with hm | hm <;> rw [hm] <;> nofun), softRestart, if_neg hstart, hquiet,
      becomeActive_eq rfl rfl]
    rfl
  case outside => rw [hexec, if_pos hm]

end Sys2Proof.Machine
end

section
/-! PROOFS. The arbiter's grant: the order of the requests and the record taken (R19 to R23, R32 to R34). -/

namespace Sys2Proof.Machine

/-! ### The loop driven (R20) -/

/-- The live own X loops by their surface numbers, ascending. -/
def liveSurface (s : State) : List Nat := ((List.range 48).map (ownLo s.straps .X + ·)).filter (liveX s)

theorem liveSurface_pairwise (s : State) : (liveSurface s).Pairwise (· < ·) :=
  (List.pairwise_map.2 (List.pairwise_lt_range.imp fun h => Nat.add_lt_add_left h _)).filter _

/-- A local loop's surface number lies in the tile (R6, R7). -/
theorem toSurface_mem_own (st : Straps) {i : Nat} (hi : i < 48) :
    ownLo st .X ≤ toSurface st .X i ∧ toSurface st .X i < ownLo st .X + 48 := by
  have hwidth : axisLoops .X = 48 := rfl
  unfold toSurface ownHi ownLo
  split <;> omega

/-- The local loop of an own surface loop is one of the tile's 48, and names the same loop (R7). -/
theorem toSurface_toLocal (st : Straps) {k : Nat} (hlo : ownLo st .X ≤ k) (hhi : k < ownLo st .X + 48) :
    toLocal st .X k < 48 ∧ toSurface st .X (toLocal st .X k) = k := by
  have hwidth : axisLoops .X = 48 := rfl
  unfold toLocal toSurface ownHi
  unfold ownLo at *
  split <;> omega

/-- A local loop that is not dead stands among the live ones with its surface number. -/
theorem toSurface_mem_liveSurface {s : State} {i : Nat} (hi : i < 48) (hlive : deadLoop s.settings i = false) :
    toSurface s.straps .X i ∈ liveSurface s := by
  obtain ⟨hlo, hhi⟩ := toSurface_mem_own s.straps hi
  refine List.mem_filter.2 ⟨List.mem_map.2 ⟨toSurface s.straps .X i - ownLo s.straps .X, List.mem_range.2 (by omega), by omega⟩, ?_⟩
  simp [liveX, toLocal_toSurface s.straps (ax := .X) hi, hlive]

/-- A live own X loop is the surface number of a local loop that is not dead. -/
theorem toLocal_of_mem_liveSurface {s : State} {k : Nat} (hk : k ∈ liveSurface s) :
    toLocal s.straps .X k < 48 ∧ toSurface s.straps .X (toLocal s.straps .X k) = k ∧
      deadLoop s.settings (toLocal s.straps .X k) = false := by
  obtain ⟨hown, hlive⟩ := List.mem_filter.1 hk
  obtain ⟨m, hm, rfl⟩ := List.mem_map.1 hown
  obtain ⟨hlocal, hsurface⟩ := toSurface_toLocal s.straps (Nat.le_add_right (ownLo s.straps .X) m)
    (Nat.add_lt_add_left (List.mem_range.1 hm) _)
  exact ⟨hlocal, hsurface, by simpa [liveX] using hlive⟩

/-- The loop driven for a surface loop is the live own X loop nearest to it, as long as one is live (R20). -/
theorem driveLoop_drivesNearest {s : State} (p : Nat) (hlives : ∃ i, i < 48 ∧ deadLoop s.settings i = false) :
    DrivesNearest s p [driveLoop s p] := by
  obtain ⟨i, hi, hlive⟩ := hlives
  obtain ⟨k, ks, hlist⟩ := List.exists_cons_of_ne_nil (List.ne_nil_of_mem (toSurface_mem_liveSurface hi hlive))
  have hnear : nearestOwn s.straps .X p = max (s.straps.col.val * 48) (min (s.straps.col.val * 48 + 47) p) :=
    nearestOwn_eq_max_min s.straps .X p
  have hdrive : driveLoop s p = toLocal s.straps .X (ks.foldl (nearer (nearestOwn s.straps .X p)) k) := by
    unfold driveLoop nearestLive
    rw [show ((List.range 48).map (ownLo s.straps .X + ·)).filter (liveX s) = k :: ks from hlist]
  obtain ⟨hmem, hleast⟩ := foldl_nearer (nearestOwn s.straps .X p) ks k (hlist ▸ liveSurface_pairwise s)
  rw [← hlist] at hmem hleast
  obtain ⟨hlocal, hsurface, hnot⟩ := toLocal_of_mem_liveSurface hmem
  rw [← hdrive] at hlocal hsurface hnot
  refine ⟨_, rfl, hlocal, hnot, fun j hj hjlive => ?_⟩
  have hj := hleast _ (toSurface_mem_liveSurface hj hjlive)
  rw [← hsurface, hnear] at hj
  exact hj

/-- The loops of a block excitation, each once, are the live ones of its group (R21). -/
theorem mem_blockLoops (s : State) (g i : Nat) :
    i ∈ blockLoops s g ↔ 8 * g ≤ i ∧ i < 8 * g + 8 ∧ deadLoop s.settings i = false := by
  simp only [blockLoops, List.mem_filter, List.mem_map, List.mem_range, Bool.not_eq_true', ← and_assoc]
  refine and_congr_left fun _ => ⟨?_, fun h => ⟨i - 8 * g, by omega, by omega⟩⟩
  rintro ⟨m, hm, rfl⟩
  omega

theorem blockLoops_nodup (s : State) (g : Nat) : (blockLoops s g).Nodup :=
  (List.nodup_range.map fun _ _ h => Nat.add_left_cancel h).filter _

/-! ### The order of the grant (R33) -/

theorem grant_of_idle {s : State} (hidle : s.engine.running = none) (hmode : s.mode ≠ .outside) : grant s = choose s := by
  simp [grant, hidle, hmode]

/-- The oldest eligible request of a class among the requests of the class alone; those passed over leave (R33, R34). -/
theorem pick_chosen_filter (cls ok : Request → Bool) : ∀ (q : List Request) (i : Nat) (r : Request), q[i]? = some r →
    cls r = true → ok r = true → (∀ j x, j < i → q[j]? = some x → cls x = true → ok x = false) →
    pick cls ok (q.filter cls) = (some r, (q.drop (i + 1)).filter cls)
  | [], i, r, h, _, _, _ => by simp at h
  | a :: q, 0, r, h, hc, ho, _ => by
    obtain rfl : a = r := by simpa using h
    simp [pick, hc, ho]
  | a :: q, i + 1, r, h, hc, ho, hn => by
    have ih := pick_chosen_filter cls ok q i r (by simpa using h) hc ho
      (fun j x hj hx => hn (j + 1) x (by omega) (by simpa using hx))
    by_cases hca : cls a = true
    · have ha : ok a = false := hn 0 a (by omega) (by simp) hca
      simp [pick, hca, ha, ih]
    · simp [hca, ih]

/-- A request that does not fit its channel's state is not eligible (R34). -/
theorem not_eligible {s : State} {r : Request}
    (h : ¬ if r.ask.work = .seek then (s.chan r.ch).state = .seek else (s.chan r.ch).state = .hold) :
    eligible s r = false :=
  Bool.eq_false_iff.2 fun he => h ((eligible_iff s r).1 he)

/-- Settles O14: `pick_chosen` and `pick_none` for each class in turn, and `driveLoop_drivesNearest` for the record. -/
theorem grantFollowsTheOrder : Obligations.GrantFollowsTheOrder := by
  intro s hidle hmode tracks fit chosen noneOf
  have hgrant := grant_of_idle hidle hmode
  have htracks : (fun r : Request => r.ask.tracks) = tracks := funext fun r => tracks_eq r.ask
  have hseeks : (fun r : Request => !r.ask.tracks) = fun x => !tracks x := funext fun r => congrArg _ (tracks_eq r.ask)
  have hunforced : s.baseline.owed < 8 → refreshForced s = false := fun h => by simp [refreshForced, h]
  have hnotracks : noneOf tracks → pick tracks (eligible s) s.queue = (none, s.queue.filter fun x => !tracks x) :=
    fun hnone => pick_none _ _ _ fun x hx hc => not_eligible (hnone x hx hc)
  refine ⟨fun howed => ?forced, fun howed i r hr => ?tracking, fun howed hnone i r hr => ?seeking,
    fun howed hnone hnone' => ?nothing, ?record⟩
  case forced =>
    rw [hgrant, choose, if_pos (by simp [refreshForced, howed]), grantRefresh_eq_listening]
  case tracking =>
    obtain ⟨hat, hcls, hfit, hfirst⟩ := hr
    rw [hgrant, choose, hunforced howed, if_neg Bool.false_ne_true, htracks,
      pick_chosen tracks _ _ i r hat hcls ((eligible_iff s r).2 hfit)
        fun j x hj hx hc => not_eligible (hfirst j x hj hx hc)]
    rfl
  case seeking =>
    obtain ⟨hat, hcls, hfit, hfirst⟩ := hr
    have hpick := pick_chosen_filter (fun x => !tracks x) (eligible s) s.queue i r hat hcls ((eligible_iff s r).2 hfit)
      fun j x hj hx hc => not_eligible (hfirst j x hj hx hc)
    rw [hgrant, choose, hunforced howed, if_neg Bool.false_ne_true, htracks, hseeks, hnotracks hnone]
    simp only [hpick]
    rfl
  case nothing =>
    have hpick : pick (fun x => !tracks x) (eligible s) (s.queue.filter fun x => !tracks x) = (none, []) := by
      rw [pick_none _ _ _ fun x hx hc => not_eligible (hnone' x (List.mem_of_mem_filter hx) hc)]
      simp
    rw [hgrant, choose, hunforced howed, if_neg Bool.false_ne_true, htracks, hseeks, hnotracks hnone]
    simp only [hpick, refreshStands, grantRefresh_eq_listening]
    by_cases h0 : s.baseline.owed = 0
    · simp [h0]
    · simp [h0, Nat.one_le_iff_ne_zero]
  case record =>
    intro r q lives
    have hdrives : ∀ p, lives → DrivesNearest s p [driveLoop s p] := fun p => driveLoop_drivesNearest p
    have hpen : ∀ pen, (s.chan r.ch).pen = some pen → lastPeakX s r.ch = pen.peakX := fun pen h => by simp [lastPeakX, h]
    obtain ⟨c, ask⟩ := r
    cases ask with
    | tip wx wy =>
      refine ⟨rfl, rfl, ?_, nofun, nofun⟩
      rintro _ _ (h | h) <;> cases h
      exact ⟨(if_pos rfl).symm, rfl, rfl, rfl, fun pen hp hl => hpen pen hp ▸ hdrives _ hl⟩
    | collar wx wy =>
      refine ⟨rfl, rfl, ?_, nofun, nofun⟩
      rintro _ _ (h | h) <;> cases h
      exact ⟨(if_neg nofun).symm, rfl, rfl, rfl, fun pen hp hl => hpen pen hp ▸ hdrives _ hl⟩
    | seekX g =>
      refine ⟨rfl, rfl, ?_, ?_, nofun⟩
      · rintro _ _ (h | h) <;> cases h
      · rintro _ ⟨⟩
        exact ⟨rfl, rfl, rfl, rfl, blockLoops_nodup s g, mem_blockLoops s g⟩
    | seekY loop g h =>
      refine ⟨rfl, rfl, ?_, nofun, ?_⟩
      · rintro _ _ (h | h) <;> cases h
      · rintro _ _ _ ⟨⟩
        exact ⟨rfl, rfl, rfl, rfl, hdrives loop⟩

end Sys2Proof.Machine
end

section
/-! PROOFS. What a baseline listen writes, at a refresh and in the double sweep, and the magnitude of a reading (R40, R44 to R50, R95, R109). -/

namespace Sys2Proof.Machine

/-! ### The end of an undisturbed baseline listen (O24, O25) -/

/-- LISTEN_END of a baseline listen that is not abandoned delivers its slot to the baseline unit (R18, R26, R47, R50). -/
theorem exec_listenEnd_baseline {s : State} {r : Running} {periods : List Period} {slot : Nat} (fall : Option Freq)
    (hr : s.inReset = false) (hrun : s.engine.running = some r) (hp : r.phase = .listen) (h16 : s.engine.paths.length = 16)
    (hl : periods.length = s.settings.listenLength) (hv : ∀ v ∈ periods, v.length = 16)
    (hjob : r.seq.job = .baseline slot) (hab : r.seq.abandoned = false) :
    exec (.listenEnd periods fall) s = .next (settleEnd fall (baselineResult slot r.seq (s.heardOut r periods))) := by
  have hundriven : r.seq.job.driven = false := by rw [hjob]; rfl
  rw [exec_listenEnd_settles fall hr hrun hp hundriven h16 hl hv, conclude_of_kept hab, deliver, hjob]

/-- Outside the double sweep an undisturbed listen completes a refresh (R47). -/
theorem baselineResult_of_refresh {seq : Sequence} {s : State} (slot : Nat) (hd : seq.disturbed = false)
    (hs : s.baseline.sweeping = false) : baselineResult slot seq s = (completeRefresh slot s, none) := by
  simp [baselineResult, hd, hs]

/-- In the double sweep an undisturbed listen is a step of the sweep (R50). -/
theorem baselineResult_of_sweep {seq : Sequence} {s : State} (slot : Nat) (hd : seq.disturbed = false)
    (hs : s.baseline.sweeping = true) : baselineResult slot seq s = sweepResult slot s := by
  simp [baselineResult, hd, hs]

/-- A full listen leaves the number of receive paths as it is (R24). -/
theorem heardOut_paths_length (r : Running) (periods : List Period) (s : State) :
    (s.heardOut r periods).engine.paths.length = s.engine.paths.length := List.length_mapIdx

/-! ### A refresh (O24) -/

/-- A quarter of a difference truncated toward zero, up or down (R47). -/
theorem refreshFloor_eq (now m : Nat) (fl : Floor) : refreshFloor now m fl =
    { fl with
      value := if fl.value ≤ m then fl.value + (m - fl.value) / 4 else fl.value - (fl.value - m) / 4
      refreshed := some now } := by
  have hvalue : ((fl.value : Int) + ((m : Int) - fl.value).tdiv 4).toNat =
      if fl.value ≤ m then fl.value + (m - fl.value) / 4 else fl.value - (fl.value - m) / 4 := by
    split
    next hup => rw [Int.tdiv_eq_ediv_of_nonneg (by omega)]; omega
    next hdown =>
      have hneg : ((m : Int) - fl.value).tdiv 4 = -((fl.value : Int) - m).tdiv 4 := by rw [← Int.neg_tdiv, neg_sub]
      rw [hneg, Int.tdiv_eq_ediv_of_nonneg (by omega)]; omega
  exact congrArg (fun v => { fl with value := v, refreshed := some now }) hvalue

/-- Settles O24: `completeRefresh`, its table by `writeSlot_get` with the quarter step of `refreshFloor_eq`. -/
theorem refreshMovesTheFloors : Obligations.RefreshMovesTheFloors := by
  intro periods fall s r slot hr hrun hp h16 hl hv hjob hslot hab hd hs hlen b
  have hexec := exec_listenEnd_baseline fall hr hrun hp h16 hl hv hjob hab
  rw [baselineResult_of_refresh (s := s.heardOut r periods) slot hd hs] at hexec
  have hpaths : b.engine.paths.length = 16 := (heardOut_paths_length r periods s).trans h16
  refine ⟨writeSlot (refreshFloor b.now) slot b, hexec, (writeSlot_length ..).trans hlen, fun f n hf hn => ?_⟩
  simp only [← refreshFloor_eq]
  exact writeSlot_get (refreshFloor b.now) slot b f n hslot hf hn hlen hpaths

/-! ### The double sweep (O25) -/

/-- Below slot 23 the sweep goes on with the next slot of its pass (R50). -/
theorem sweepResult_of_lt {s : State} (slot : Nat) (h : s.baseline.counter < 23) :
    sweepResult slot s =
      ({ s with baseline := { s.baseline with
          table := writeSlot (sweepFloor s.baseline.pass s.now) slot s, counter := s.baseline.counter + 1 } }, none) := by
  simp [sweepResult, stepSweep, writeSweep, h]

/-- After slot 23 of the first pass the second begins (R50). -/
theorem sweepResult_of_first_pass {s : State} (slot : Nat) (h : s.baseline.counter = 23) (hp : s.baseline.pass = 1) :
    sweepResult slot s =
      ({ s with baseline := { s.baseline with
          table := writeSlot (sweepFloor s.baseline.pass s.now) slot s, counter := 0, pass := 2 } }, none) := by
  simp [sweepResult, stepSweep, writeSweep, h, hp]

/-- After slot 23 of the second pass the sweep is over and the tile becomes ACTIVE (R45, R50, R109). -/
theorem sweepResult_of_second_pass {s : State} (slot : Nat) (h : s.baseline.counter = 23) (hp : s.baseline.pass = 2) :
    sweepResult slot s =
      becomeActive { s with baseline :=
        { table := writeSlot (sweepFloor s.baseline.pass s.now) slot s, counter := 0, owed := 0, pass := 2
          sweeping := false, timer := some (s.now + msec 8) } } := by
  simp [sweepResult, stepSweep, writeSweep, endSweep, h, hp]

/-- Settles O25: where the sweep goes on by slot and pass, its end by `becomeActive_eq`, and its table by `writeSlot_get`. -/
theorem sweepWritesEachRecordOncePerPass : Obligations.SweepWritesEachRecordOncePerPass := by
  intro periods fall s r slot hr hrun hp h16 hl hv hjob hslot hab hd hs hlen hcounter _ b
  have hexec := exec_listenEnd_baseline fall hr hrun hp h16 hl hv hjob hab
  rw [baselineResult_of_sweep (s := s.heardOut r periods) slot hd hs] at hexec
  have hpaths : b.engine.paths.length = 16 := (heardOut_paths_length r periods s).trans h16
  refine ⟨writeSlot (sweepFloor s.baseline.pass b.now) slot b, fun hlt => ?nextSlot, fun hlast hfirst => ?secondPass,
    fun hlast hsecond hpass hturn => ?complete, (writeSlot_length ..).trans hlen, fun f n hf hn => ?record⟩
  case nextSlot =>
    rw [hexec, sweepResult_of_lt (s := s.heardOut r periods) slot (hcounter.trans_lt hlt), ← hcounter]; rfl
  case secondPass =>
    rw [hexec, sweepResult_of_first_pass (s := s.heardOut r periods) slot (hcounter.trans hlast) hfirst]; rfl
  case complete =>
    rw [hexec, sweepResult_of_second_pass (s := s.heardOut r periods) slot (hcounter.trans hlast) hsecond,
      becomeActive_eq]
    · rfl
    · exact hpass
    · exact hturn
  case record => exact writeSlot_get (sweepFloor s.baseline.pass b.now) slot b f n hslot hf hn hlen hpaths

/-! ### The magnitude of a reading (O47) -/

/-- Sums within v bound the magnitude by its value at v (R40). -/
theorem magnitude_le_of_sums {v : Nat} {p : Path} (hi : p.i.natAbs ≤ v) (hq : p.q.natAbs ≤ v) :
    magnitude p ≤ v + 3 * v / 8 := by
  unfold magnitude; omega

/-- The magnitude of a reading with both sums at v (R40). -/
theorem magnitude_of_sums {v : Nat} {p : Path} (hi : p.i.natAbs = v) (hq : p.q.natAbs = v) :
    magnitude p = v + 3 * v / 8 := by
  unfold magnitude; rw [hi, hq, max_self, min_self]

/-- The magnitude the baseline unit forms of a path (R40, R47). -/
theorem pathMagnitude_of_getElem? {s : State} {j : Nat} {p : Path} (h : s.engine.paths[j]? = some p) :
    pathMagnitude s j = magnitude p := by
  simp [pathMagnitude, h]

/-- The amplitude of a live loop's entry is of the magnitude of the path that hears it, over its floor and trimmed (R40, R55, R66). -/
theorem ownEntry_amp_of_live {s : State} {ax : Axis} {w n : Nat} {p : Path} (f : Nat)
    (h : s.engine.paths[pathIndex ax n]? = some p) (hlive : deadLoop s.settings (tileLoop ax (w + n)) = false) :
    (ownEntry s ax f w n).amp =
      amplitude (magnitude p) (floorAt s f (tileLoop ax (w + n))).value (trimOf s.settings (tileLoop ax (w + n))) := by
  have hpath : pathOf s ax n = p := by simp [pathOf, h]
  simp [ownEntry, hlive, hpath]

/-- Settles O47: R40's formula, its value at the largest sums, and the two places where it is formed. -/
theorem magnitudeOfAReading : Obligations.MagnitudeOfAReading := by
  refine ⟨fun p => ⟨rfl, ?signI, ?signQ, ?order, fun v hv => ?largest⟩, fun s j p hp => ⟨?floors, ?ownX, ?ownY⟩⟩
  case signI => simp [magnitude, Int.natAbs_neg]
  case signQ => simp [magnitude, Int.natAbs_neg]
  case order => simp [magnitude, max_comm, min_comm]
  case largest =>
    have hmax : v.1 + 3 * v.1 / 8 = v.2 := by revert v; decide
    rw [← hmax]
    exact ⟨magnitude_le_of_sums, magnitude_of_sums⟩
  case floors => exact pathMagnitude_of_getElem? hp
  case ownX => exact fun f w _ hlive => ownEntry_amp_of_live (ax := .X) f hp hlive
  case ownY =>
    rintro f w n rfl hlive
    exact ownEntry_amp_of_live (ax := .Y) f hp hlive

end Sys2Proof.Machine
end

section
/-! PROOFS. The end of a border wait: the closed record, the REPORT, and then the loss of the pen or the yield test (R67, R68, R70, R75, R80, R93, R96, R118, R119, R126, R137). -/

namespace Sys2Proof.Machine

/-! ### The closed record (R67, R68, R70) -/

/-- Closing a record fills the dead entries of each of its profiles (R67, R70). -/
theorem closeRecord_profile (r : CycleRecord) (k : Coil) (ax : Axis) :
    (closeRecord r).profile k ax = fillDead (r.profile k ax) := by
  cases k <;> cases ax <;> rfl

theorem fillDead_length (es : List Entry) : (fillDead es).length = es.length := by
  rw [fillDead_eq_mapIdx, List.length_mapIdx]

/-- The entry at a place of a filled profile keeps its loop and source (R67). -/
theorem fillDead_getElem? {es : List Entry} {i : Nat} {x : Entry} (h : es[i]? = some x) :
    (fillDead es)[i]? = some
      { x with amp := (filledPlace (liveRun es) i).1, clipped := (filledPlace (liveRun es) i).2 } := by
  rw [fillDead_eq_mapIdx, List.getElem?_mapIdx, h]
  rfl

/-- An edge mark stands exactly when there is a want that the border entries do not fill (R68). -/
theorem edgeMark_iff (want : Option Want) (tip : List Entry) : edgeMark want tip = true ↔
    ∃ w, want = some w ∧ (tip.filter (·.source = .border)).length < w.count := by
  cases want <;> simp [edgeMark, beq_eq_decide]

/-! ### The cycle's end (R75, R118, R119) -/

/-- A cycle in progress ends with its REPORT queued and the overrun count at 0; then the channel is lost, or the yield test made (R119). -/
theorem finishCycle_eq {s : State} {c : Chan} {cs : CycleState} {cy : Cycle} (ct : Contents) (disturbed lost : Bool)
    (hcs : (s.chan c).cycles = some cs) (hcy : cs.current = some cy) :
    let ended := (queueFrame (.report (completeReport c ct cs cy disturbed s.loader.imageDefault)) s).setChan c
      { s.chan c with cycles := some { cs with current := none, overrun := 0 } }
    finishCycle c ct disturbed lost s =
      if lost then loseChannel c (cs.number.getD 0) ended
      else (yieldTest c ct (cs.number.getD 0) cs.spacing ended, none) := by
  unfold finishCycle
  simp only [hcs, hcy, modChan_eq, queueFrame_chan]
  rfl

/-- A cycle's estimate has been made of its closed record and its REPORT queued (R70, R75, R119). -/
def State.estimated (c : Chan) (cs : CycleState) (cy : Cycle) (rec : CycleRecord) (e : Estimate) (s : State) : State :=
  { s with link := s.link.push (.report (completeReport c e.contents cs cy false s.loader.imageDefault)) }.setChan c
    { s.chan c with
      record := some (closeRecord rec), pen := some e.pen, level := e.level, lastStrength := e.strength
      cycles := some { cs with current := none, overrun := 0 } }

/-- The border wait of a cycle ends with one estimate of the closed record and the cycle's end (R70, R75, R118). -/
theorem endBorderWait_eq {s : State} {c : Chan} {cs : CycleState} {cy : Cycle} {rec : CycleRecord} {pen : Pen}
    {e : Estimate} (hcs : (s.chan c).cycles = some cs) (hcy : cs.current = some cy)
    (hrec : (s.chan c).record = some rec) (hpen : (s.chan c).pen = some pen)
    (he : e = estimate s.settings c (s.chan c).level (closeRecord rec) pen) :
    endBorderWait c s =
      if e.lost then loseChannel c (cs.number.getD 0) (s.estimated c cs cy rec e)
      else (yieldTest c e.contents (cs.number.getD 0) cs.spacing (s.estimated c cs cy rec e), none) := by
  have hended : ∀ (f : Frame) (ch ch' : Channel),
      (queueFrame f (s.setChan c ch)).setChan c ch' = { s with link := s.link.push f }.setChan c ch' := by
    intro f ch ch'; cases c <;> rfl
  unfold endBorderWait
  simp only [hrec, hpen, modChan_eq, ← he]
  rw [finishCycle_eq (cs := cs) (cy := cy) _ _ _ (by rw [setChan_chan_same]; exact hcs) hcy, hended,
    setChan_chan_same, setChan_loader]
  rfl

/-- BORDER_TIMER_EXPIRY ends the border wait at the timer's moment (R118). -/
theorem exec_borderTimerExpiry {s : State} {c : Chan} {cy : Cycle} {t : Nat} (hr : s.inReset = false)
    (hcy : (s.chan c).current = some cy) (ht : cy.border = some t) :
    exec (.borderTimerExpiry c) s = .next (settleReaction (endBorderWait c (reach t s))) := by
  have hexec : exec (.borderTimerExpiry c) s = execBorderTimerExpiry c s := rfl
  simp [hexec, execBorderTimerExpiry, unlessReset, hr, borderDue, hcy, expires, ht]

/-! ### The channel enters SEEK (R93, R96, R137) -/

/-- No pass begins while one is in progress, or with no enabled channel in SEEK (R96). -/
theorem beginPass_of_none {s : State} (h : s.seek.pass ≠ none ∨ ∀ d, s.seeks d = false) : beginPass s = (s, none) := by
  rcases h with hpass | hseeks
  · unfold beginPass
    split
    · contradiction
    · rfl
  · have hnone : passChannel s = none := by simp [passChannel, hseeks]
    simp [beginPass, hnone]

/-- A pass begins for the turn's channel, or for the one in SEEK when the turn's is not (R96). -/
theorem beginPass_of_seeks {s : State} {d : Chan} (hpass : s.seek.pass = none) (hd : s.seeks d = true)
    (hturn : d = s.seek.turn ∨ s.seeks s.seek.turn = false) :
    beginPass s =
      ({ s with seek := { s.seek with pass := some { ch := d, stage := .x 0 }, turn := otherChan d } },
        some { ch := d, ask := .seekX 0 }) := by
  have hchosen : passChannel s = some d := by
    unfold passChannel
    rcases hturn with rfl | hother
    · rw [if_pos hd]
    · have hne : otherChan s.seek.turn = d := by
        cases ht : s.seek.turn <;> cases d <;> simp_all [otherChan]
      rw [if_neg (by simp [hother]), hne, if_pos hd]
  simp only [beginPass, hpass, hchosen]
  rfl

/-- The records of a channel released are gone (R58, R73, R110). -/
theorem released_records (c : Chan) (st : ChanState) (s : State) :
    ((s.released c st).chan c).record = none ∧ ((s.released c st).chan c).pen = none ∧
      ((s.released c st).chan c).cycles = none := by
  unfold State.released
  rw [setChan_chan_same]
  exact ⟨rfl, rfl, rfl⟩

/-- The dormant timer set afresh leaves the channels alone (R93). -/
@[simp] theorem timed_chan (c : Chan) (s : State) : s.timed.chan c = s.chan c := by cases c <;> rfl

/-- Releasing a channel and timing DORMANT leave the seek scheduler alone. -/
theorem released_timed_seek (c : Chan) (st : ChanState) (s : State) : (s.released c st).timed.seek = s.seek := by
  cases c <;> rfl

/-- A held channel enters SEEK and no pass begins: a seek timer runs, a pass is in progress, or no channel seeks (R96). -/
theorem enterSeek_without_pass {c : Chan} {s : State} (h : s.holding c = true)
    (hwait : s.seek.timer ≠ none ∨ s.seek.backoff ≠ none ∨ s.seek.pass ≠ none ∨
      ∀ d, (s.released c .seek).timed.seeks d = false) :
    enterSeek c s = ((s.released c .seek).timed, none) := by
  rw [enterSeek_of_holding c s h]
  split
  · rename_i ht hb
    refine beginPass_of_none ?_
    rw [released_timed_seek]
    exact (hwait.resolve_left (not_not.2 ht)).resolve_left (not_not.2 hb)
  · rfl

/-- A held channel enters SEEK and a pass begins at once (R96). -/
theorem enterSeek_with_pass {c d : Chan} {s : State} (h : s.holding c = true) (ht : s.seek.timer = none)
    (hb : s.seek.backoff = none) (hpass : s.seek.pass = none) (hd : (s.released c .seek).timed.seeks d = true)
    (hturn : d = s.seek.turn ∨ (s.released c .seek).timed.seeks s.seek.turn = false) :
    enterSeek c s =
      ({ (s.released c .seek).timed with
          seek := { s.seek with pass := some { ch := d, stage := .x 0 }, turn := otherChan d } },
        some { ch := d, ask := .seekX 0 }) := by
  have hseek := released_timed_seek c .seek s
  have hbegins := beginPass_of_seeks (s := (s.released c .seek).timed) (by rw [hseek, hpass]) hd (by rw [hseek]; exact hturn)
  rw [enterSeek_of_holding c s h, ht, hb]
  exact hbegins.trans (by rw [hseek])

/-- Settles O18: `endBorderWait_eq`, then `enterSeek_without_pass` and `enterSeek_with_pass` for a channel lost; the closed record place by place. -/
theorem borderWaitEndsWithAReport : Obligations.BorderWaitEndsWithAReport := by
  intro s c cs cy rec pen n hcs hcy hn hrec hpen e report reported closed
  have hreport : completeReport c e.contents cs cy false s.loader.imageDefault = report := by
    unfold completeReport
    rw [hn]
    rfl
  have hreported : s.estimated c cs cy rec e = reported := by unfold State.estimated; rw [hreport]
  have hwait : endBorderWait c s =
      if e.lost then loseChannel c n reported else (yieldTest c e.contents n cs.spacing reported, none) := by
    rw [endBorderWait_eq (e := e) hcs hcy hrec hpen rfl, hreported, hn]
    rfl
  refine ⟨fun hkept => ?kept, fun hlost => ?lost, ⟨rfl, fun k ax => ⟨?length, fun i x hx => ?filled⟩, ?edgeX, ?edgeY⟩,
    fun t0 hr ht => ?expiry⟩
  case kept => rw [hwait, hkept]; rfl
  case lost =>
    intro lost b
    have hlostAt : endBorderWait c s = enterSeek c lost := by rw [hwait, hlost]; rfl
    refine ⟨hlostAt, fun hst => ?_⟩
    have hheld : lost.holding c = true := by
      have hstate : (lost.chan c).state = .hold := by cases c <;> exact hst
      simp [State.holding, hstate]
    have hseek : lost.seek = s.seek := by cases c <;> rfl
    obtain ⟨hrecord, hnopen, hcycles⟩ := released_records c .seek lost
    rw [show b.chan c = (lost.released c .seek).chan c from timed_chan c _, hlostAt, ← hseek]
    exact ⟨(released_chan c .seek lost).1, hrecord, hnopen, hcycles, enterSeek_without_pass hheld,
      fun htimer hback hpass d => enterSeek_with_pass hheld htimer hback hpass⟩
  case length => rw [closeRecord_profile, fillDead_length]
  case filled => rw [closeRecord_profile]; exact fillDead_getElem? hx
  case edgeX => exact edgeMark_iff rec.wantX rec.tipX
  case edgeY => exact edgeMark_iff rec.wantY rec.tipY
  case expiry =>
    have hcur : (s.chan c).current = some cy := by simp [Channel.current, hcs, hcy]
    exact exec_borderTimerExpiry hr hcur ht

end Sys2Proof.Machine
end

section
/-! PROOFS. BORDER at the holder: acceptance, the entries merged and removed, and the frames awaited (R63, R64, R117, R118). -/

namespace Sys2Proof.Machine

/-! ### Border entries that adjoin the own run (R64) -/

/-- The window's lowest surface loop is the lower of the two at its ends (R8). -/
theorem runLow_eq_min {st : Straps} {ax : Axis} {w : Nat} (hw : w + 8 ≤ axisLoops ax) :
    runLow st ax w = min (loopAt st ax w) (loopAt st ax (w + 7)) := by
  rw [← toSurface_eq_loopAt, ← toSurface_eq_loopAt]
  unfold runLow toSurface ownHi
  split <;> omega

/-- Steps that begin at a place of P and cover what lies between show the same as the places between. -/
theorem forall_steps_iff {P Between : Nat → Prop} {n : Nat} {g : Nat → Nat} (hstart : P (g 0))
    (hreach : ∀ m, Between m → ∃ d, d < n ∧ g d = m) (hbetween : ∀ d, 0 < d → d < n → Between (g d)) :
    (∀ d, d < n → P (g d)) ↔ ∀ m, Between m → P m := by
  refine ⟨fun h m hm => ?_, fun h d hd => ?_⟩
  · obtain ⟨d, hd, rfl⟩ := hreach m hm
    exact h d hd
  · rcases Nat.eq_zero_or_pos d with rfl | hpos
    · exact hstart
    · exact h _ (hbetween d hpos hd)

/-- An own or a filled entry always adjoins the own run; a border entry does exactly when every loop between holds an entry (R64). -/
theorem adjoins_iff (st : Straps) (ax : Axis) (w : Nat) {es : List Entry} {e : Entry} (he : e ∈ es) :
    adjoins st ax w es e = true ↔ (e.source = .border →
      ∀ m, (e.loop < m ∧ m < runLow st ax w) ∨ (runLow st ax w + 7 < m ∧ m < e.loop) → ∃ d ∈ es, d.loop = m) := by
  unfold adjoins
  by_cases hsource : e.source = .border
  case neg => simp [hsource]
  have hself : holdsLoop es e.loop = true := (holdsLoop_iff es e.loop).2 ⟨e, he, rfl⟩
  simp only [hsource, bne_self_eq_false, Bool.false_or, true_implies, ← holdsLoop_iff]
  split <;> simp only [List.all_eq_true, List.mem_range]
  · exact forall_steps_iff (P := (holdsLoop es · = true)) (g := (e.loop + ·)) hself
      (fun m hm => ⟨m - e.loop, by omega, by omega⟩) (fun d _ _ => by omega)
  · exact forall_steps_iff (P := (holdsLoop es · = true)) (g := (e.loop - ·)) hself
      (fun m hm => ⟨e.loop - m, by omega, by omega⟩) (fun d _ _ => by omega)

/-- With the other entries inside the own run, it is border entries that bridge the gap to it (R64). -/
theorem mem_pruned {st : Straps} {ax : Axis} {w : Nat} {es : List Entry}
    (hown : ∀ e ∈ es, e.source ≠ .border → runLow st ax w ≤ e.loop ∧ e.loop ≤ runLow st ax w + 7) (e : Entry) :
    e ∈ pruned st ax w es ↔ e ∈ es ∧ (e.source = .border →
      ∀ m, (e.loop < m ∧ m < runLow st ax w) ∨ (runLow st ax w + 7 < m ∧ m < e.loop) →
        ∃ d, d ∈ es ∧ d.source = .border ∧ d.loop = m) := by
  unfold pruned
  rw [List.mem_filter]
  refine and_congr_right fun he => (adjoins_iff st ax w he).trans ?_
  refine imp_congr_right fun _ => forall_congr' fun m => imp_congr_right fun hm => exists_congr fun d =>
    and_congr_right fun hd => ⟨fun hloop => ⟨by_contra fun hsource => ?_, hloop⟩, And.right⟩
  have := hown d hd hsource
  omega

/-! ### The entries merged (R63) -/

/-- A profile with a BORDER's places merged into it, before any entry is removed (R63). -/
def joinedCoil (st : Straps) (ax : Axis) (want : Want) (first count : Nat) (amps : List Nat) (clipped : Bool)
    (es : List Entry) : List Entry :=
  (namedPlaces first count amps).foldl (mergeEntry st ax want clipped) es

theorem mergeCoil_eq_pruned (st : Straps) (ax : Axis) (want : Want) (window first count : Nat) (amps : List Nat)
    (clipped : Bool) (es : List Entry) : mergeCoil st ax want window first count amps clipped es =
      pruned st ax window (joinedCoil st ax want first count amps clipped es) := rfl

/-- Without a place a BORDER merges nothing (R63). -/
@[simp] theorem joinedCoil_nil (st : Straps) (ax : Axis) (want : Want) (first count : Nat) (clipped : Bool)
    (es : List Entry) : joinedCoil st ax want first count [] clipped es = es := by
  simp [joinedCoil, namedPlaces]

theorem wanted_iff (st : Straps) (ax : Axis) (w : Want) (k : Nat) : wanted st ax w k = true ↔
    firstWanted st ax w ≤ k ∧ k < firstWanted st ax w + w.count := by
  simp [wanted]

/-- The named loops that are wanted and free take their value times 4, beside what the profile held (R63). -/
theorem mem_joinedCoil {st : Straps} {ax : Axis} {w : Want} {first count : Nat} {amps : List Nat} {clipped : Bool}
    {es : List Entry} (h : Ascending es) (e : Entry) :
    e ∈ joinedCoil st ax w first count amps clipped es ↔ e ∈ es ∨ ∃ i v, i < count ∧ amps[i]? = some v ∧
      e = { loop := first + i, amp := 4 * v, source := .border, clipped := clipped } ∧
      firstWanted st ax w ≤ e.loop ∧ e.loop < firstWanted st ax w + w.count ∧ ∀ d ∈ es, d.loop ≠ e.loop := by
  refine ((mem_foldl_mergeEntry h (namedPlaces_distinct first count amps)).2 e).trans (or_congr_right ?_)
  simp only [mem_namedPlaces, wanted_iff]
  constructor
  · rintro ⟨v, ⟨i, hi, hloop, hv⟩, rfl, ⟨hlow, hhigh⟩, hfree⟩
    exact ⟨i, v.2, hi, hv, by rw [hloop], hlow, hhigh, hfree⟩
  · rintro ⟨i, v, hi, hv, rfl, hlow, hhigh, hfree⟩
    exact ⟨(first + i, v), ⟨i, hi, rfl, hv⟩, rfl, ⟨hlow, hhigh⟩, hfree⟩

theorem ascending_joinedCoil {st : Straps} {ax : Axis} {w : Want} {first count : Nat} {amps : List Nat} {clipped : Bool}
    {es : List Entry} (h : Ascending es) : Ascending (joinedCoil st ax w first count amps clipped es) :=
  (mem_foldl_mergeEntry h (namedPlaces_distinct first count amps)).1

/-- A merge adds border entries only. -/
theorem mem_of_mem_joinedCoil {st : Straps} {ax : Axis} {w : Want} {first count : Nat} {amps : List Nat} {clipped : Bool}
    {es : List Entry} (h : Ascending es) {e : Entry} (he : e ∈ joinedCoil st ax w first count amps clipped es)
    (hsource : e.source ≠ .border) : e ∈ es := by
  rcases (mem_joinedCoil h e).1 he with hold | ⟨i, v, _, _, rfl, _⟩
  · exact hold
  · exact absurd rfl hsource

/-- Removing entries keeps the order of the rest. -/
theorem pruned_sublist (st : Straps) (ax : Axis) (w : Nat) (es : List Entry) : (pruned st ax w es).Sublist es :=
  List.filter_sublist

/-! ### The record a BORDER is merged into (R63) -/

theorem profile_setProfile (r : CycleRecord) (k k' : Coil) (ax ax' : Axis) (es : List Entry) :
    (r.setProfile k ax es).profile k' ax' = if k' = k ∧ ax' = ax then es else r.profile k' ax' := by
  cases k <;> cases ax <;> cases k' <;> cases ax' <;> rfl

theorem setProfile_window (r : CycleRecord) (k : Coil) (ax ax' : Axis) (es : List Entry) :
    (r.setProfile k ax es).window ax' = r.window ax' := by
  cases k <;> cases ax <;> rfl

/-- The values a BORDER gives for a coil; an absent collar has none (R63, R160). -/
def Border.values (b : Border) (k : Coil) : List Nat :=
  if k = .tip then b.tip else if b.collarAbsent then [] else b.collar

/-- The clipped mark a BORDER gives for a coil (R63, R160). -/
def Border.clippedMark (b : Border) (k : Coil) : Bool := if k = .tip then b.tipClipped else b.collarClipped

/-- A BORDER from another than the want's supplier, or of an axis without a want, is ignored as a whole (R63). -/
theorem mergeBorder_of_not_supplier {st : Straps} {origin : Nat} {b : Border} {r : CycleRecord}
    (h : ∀ w, r.want b.axis = some w → w.supplier ≠ origin) : mergeBorder st origin b r = r := by
  unfold mergeBorder
  split
  · rfl
  · rename_i w hw
    rw [if_pos (h w hw)]

/-- A merge replaces the two profiles of the BORDER's axis at most (R63). -/
theorem mergeBorder_cases (st : Straps) (origin : Nat) (b : Border) (r : CycleRecord) :
    mergeBorder st origin b r = r ∨ ∃ tip collar,
      mergeBorder st origin b r = (r.setProfile .tip b.axis tip).setProfile .collar b.axis collar := by
  unfold mergeBorder
  split
  · exact .inl rfl
  · split
    · exact .inl rfl
    · split <;> exact .inr ⟨_, _, rfl⟩

/-- A merge changes nothing of the record but its four profiles. -/
theorem mergeBorder_frame (st : Straps) (origin : Nat) (b : Border) (r : CycleRecord) :
    mergeBorder st origin b r =
      { r with
        tipX := (mergeBorder st origin b r).tipX, tipY := (mergeBorder st origin b r).tipY
        collarX := (mergeBorder st origin b r).collarX, collarY := (mergeBorder st origin b r).collarY } := by
  rcases mergeBorder_cases st origin b r with h | ⟨tip, collar, h⟩ <;> rw [h]
  cases b.axis <;> rfl

/-- A merge leaves the profiles of the other axis alone. -/
theorem mergeBorder_profile_of_ne {st : Straps} {origin : Nat} {b : Border} {r : CycleRecord} {ax : Axis} (k : Coil)
    (h : ax ≠ b.axis) : (mergeBorder st origin b r).profile k ax = r.profile k ax := by
  rcases mergeBorder_cases st origin b r with hsame | ⟨tip, collar, hset⟩
  · rw [hsame]
  · simp [hset, profile_setProfile, h]

/-- The profile of a coil after a merge from the supplier (R63, R64). -/
theorem mergeBorder_profile {st : Straps} {origin : Nat} {b : Border} {r : CycleRecord} {w : Want} (k : Coil)
    (hw : r.want b.axis = some w) (ho : w.supplier = origin) :
    (mergeBorder st origin b r).profile k b.axis =
      pruned st b.axis (r.window b.axis)
        (joinedCoil st b.axis w b.first b.count (b.values k) (b.clippedMark k) (r.profile k b.axis)) := by
  unfold mergeBorder
  simp only [hw, ho, ne_eq, not_true_eq_false, if_false, setProfile_window, ← mergeCoil_eq_pruned]
  cases k with
  | tip => split <;> simp [profile_setProfile, Border.values, Border.clippedMark]
  | collar =>
    split
    case isTrue habsent => simp [profile_setProfile, Border.values, habsent, mergeCoil_eq_pruned]
    case isFalse hpresent => simp [profile_setProfile, Border.values, Border.clippedMark, hpresent]

/-! ### Acceptance and the frames awaited (R117, R118) -/

/-- A BORDER that arrives goes to the channel it names (R117). -/
theorem exec_border {o : List Byte} {x : Border} {s : State} (dt : Nat) (h : Arrives .border o (.border x) s) :
    exec (.border dt (o.drop 1)) s = .next (settleReaction (onBorder (originOf o) x (s.copied dt o))) := by
  have hexec := exec_command_of_arrives dt h
  obtain ⟨_, htracking, _⟩ := h
  have hcopy : onCopy (originOf o) (.border x) (s.copied dt o) = onBorder (originOf o) x (s.copied dt o) :=
    if_pos htracking
  rw [hcopy] at hexec
  exact hexec

/-- A BORDER is accepted in HOLD with a cycle of its number in progress, when it names this tile as holder (R117). -/
theorem acceptsBorder_iff {s : State} {b : Border} (h : s.enabled b.ch = true) : acceptsBorder s b = true ↔
    (s.chan b.ch).state = .hold ∧ b.holder = ownIndex s.straps ∧ (s.chan b.ch).current ≠ none ∧
      ∃ cs, (s.chan b.ch).cycles = some cs ∧ cs.number = some b.cycle := by
  unfold acceptsBorder
  cases (s.chan b.ch).cycles <;> simp [h, State.inHold, Option.isSome_iff_ne_none, and_assoc]

/-- The expected frame of an axis comes from its want's supplier, and only once (R117). -/
theorem expectedBorder_iff (origin : Nat) (b : Border) (r : CycleRecord) (cy : Cycle) :
    expectedBorder origin b r cy = true ↔ ∃ w, r.want b.axis = some w ∧ w.supplier = origin ∧
      (b.axis = .X → cy.gotX = false) ∧ (b.axis = .Y → cy.gotY = false) := by
  unfold expectedBorder
  cases r.want b.axis <;> cases b.axis <;> simp

theorem allExpected_iff (r : CycleRecord) (cy : Cycle) : allExpected r cy = true ↔
    (r.wantX = none ∨ cy.gotX = true) ∧ (r.wantY = none ∨ cy.gotY = true) := by
  simp [allExpected]

/-- The frame of an axis is awaited no more, that of the other as before (R117). -/
theorem got_eq (ax : Axis) (cy : Cycle) :
    cy.got ax = { cy with gotX := cy.gotX || ax == .X, gotY := cy.gotY || ax == .Y } := by
  cases ax <;> simp [Cycle.got]

/-- What an accepted BORDER does: the merge, the count of an expected frame, and the end of the wait at the last one (R63, R117, R118). -/
theorem takeBorder_eq {origin : Nat} {b : Border} {s : State} {cs : CycleState} {cy : Cycle} {rec : CycleRecord}
    (hcs : (s.chan b.ch).cycles = some cs) (hcy : cs.current = some cy) (hrec : (s.chan b.ch).record = some rec) :
    let merged := { s.chan b.ch with record := some (mergeBorder s.straps origin b rec) }
    let taken := s.setChan b.ch { merged with cycles := some { cs with current := some (cy.got b.axis) } }
    takeBorder origin b s =
      if expectedBorder origin b rec cy then
        if cy.phase = .borderWait ∧ allExpected rec (cy.got b.axis) then endBorderWait b.ch taken else (taken, none)
      else (s.setChan b.ch merged, none) := by
  intro merged taken
  have hcur : (s.chan b.ch).current = some cy := by simp [Channel.current, hcs, hcy]
  have hmerged : modRecord b.ch (mergeBorder s.straps origin b) s = s.setChan b.ch merged := by
    rw [modRecord, modChan_eq, hrec]; rfl
  have htaken : modCycle b.ch (Cycle.got b.axis) (s.setChan b.ch merged) = taken := by
    rw [modCycle_eq _ (by rw [setChan_chan_same]; exact hcs) hcy, setChan_setChan, setChan_chan_same]
  unfold takeBorder
  simp only [hrec, hcur, hmerged, htaken]

/-- Settles O40: `takeBorder_eq` for an accepted frame, and `mergeBorder_profile` with `mem_pruned` and `mem_joinedCoil` for the merge. -/
theorem borderIsAccepted : Obligations.BorderIsAccepted := by
  intro dt o x s harr c b
  have hexec := exec_border dt harr
  have hchan : b.chan c = s.chan c := rfl
  have henabled : b.enabled c = true := by
    obtain ⟨_, _, _, _, _, _, _, _, _, hen⟩ := harr
    exact hen x.ch rfl
  have haccepts := acceptsBorder_iff (b := x) henabled
  rw [hchan] at haccepts
  refine ⟨?accepted, ?passedOver, ?merged⟩
  case accepted =>
    intro cs cy rec hst hholder hcs hcy hn hrec merged got taken expected last
    have hcur : (s.chan c).current ≠ none := by simp [Channel.current, hcs, hcy]
    have htake : onBorder (originOf o) x b = takeBorder (originOf o) x b :=
      if_pos (haccepts.2 ⟨hst, hholder, hcur, cs, hcs, hn⟩)
    have hexpected : expectedBorder (originOf o) x rec cy = true ↔ expected := expectedBorder_iff ..
    have hlast : allExpected rec got = true ↔ last := allExpected_iff ..
    have hresult := takeBorder_eq (origin := originOf o) (b := x) (s := b) hcs hcy hrec
    rw [got_eq] at hresult
    rw [hexec, htake, hresult]
    refine ⟨fun he => ?_, fun he hnot => ?_, fun he hwait hl => ?_⟩
    · rw [if_neg (mt hexpected.1 he)]; rfl
    · rw [if_pos (hexpected.2 he), if_neg fun h => hnot.elim (· h.1) (· (hlast.1 h.2))]; rfl
    · rw [if_pos (hexpected.2 he), if_pos ⟨hwait, hlast.2 hl⟩]; rfl
  case passedOver =>
    intro hno
    have hrefused : ¬ acceptsBorder b x = true := by
      rw [haccepts]
      rintro ⟨hst, hholder, hcur, cs, hcs, hn⟩
      rcases hno with h | h | h | h
      · exact h hst
      · exact h hholder
      · exact hcur h
      · exact h cs hcs hn
    have hpassed : onBorder (originOf o) x b = (b, none) := if_neg hrefused
    rw [hexec, hpassed]
    rfl
  case merged =>
    intro rec k merged es new low
    refine ⟨mergeBorder_frame .., fun ax => mergeBorder_profile_of_ne k, mergeBorder_of_not_supplier, ?_⟩
    intro w hw ho hwindow hasc hown first values clipped joined
    have hlow : runLow s.straps x.axis (rec.window x.axis) = low := runLow_eq_min hwindow
    have hnew : new = pruned s.straps x.axis (rec.window x.axis)
        (joinedCoil s.straps x.axis w x.first x.count values clipped es) := mergeBorder_profile k hw ho
    have hfirst : firstWanted s.straps x.axis w = first := by
      unfold firstWanted
      cases hside : w.side <;> simp [first, hside]
    have hmem : ∀ e, e ∈ joinedCoil s.straps x.axis w x.first x.count values clipped es ↔ joined e := by
      intro e
      rw [mem_joinedCoil hasc, hfirst]
    rw [hnew]
    refine ⟨(ascending_joinedCoil hasc).sublist (pruned_sublist ..), fun e => ?_⟩
    rw [mem_pruned]
    · simp only [hmem, hlow]
    · intro e he hsource
      rw [hlow]
      exact hown e (mem_of_mem_joinedCoil hasc he hsource) hsource

end Sys2Proof.Machine
end

section
/-! PROOFS. The pen estimator: the peak interpolated, a weak cycle and one that is not (R73 to R91). -/

namespace Sys2Proof.Machine

/-! ### Arithmetic (R1) -/

/-- A clamp to a range that is not empty. -/
theorem clampInt_eq {lo hi : Int} (h : lo ≤ hi) (v : Int) : clampInt lo hi v = max lo (min hi v) := by
  unfold clampInt
  split
  · omega
  · split <;> omega

/-- A clamped number lies in its range. -/
theorem clampInt_within {lo hi : Int} (h : lo ≤ hi) (v : Int) : lo ≤ clampInt lo hi v ∧ clampInt lo hi v ≤ hi := by
  rw [clampInt_eq h]
  omega

/-- A clamp of whole numbers that are not negative, to a range that is not empty. -/
theorem clampNat_eq {lo hi : Nat} (h : lo ≤ hi) (v : Nat) : clampNat lo hi v = max lo (min hi v) := by
  unfold clampNat
  split
  · omega
  · split <;> omega

/-- A half rounded up is the nearest whole number. -/
theorem two_mul_half_up (v : Nat) {d : Nat} (hd : 0 < d) :
    2 * ((2 * v + d) / (2 * d)) * d ≤ 2 * v + d ∧ 2 * v < 2 * ((2 * v + d) / (2 * d)) * d + d := by
  have hdiv := Nat.div_add_mod (2 * v + d) (2 * d)
  have hmod := Nat.mod_lt (2 * v + d) (show 0 < 2 * d by omega)
  have hcomm : 2 * ((2 * v + d) / (2 * d)) * d = 2 * d * ((2 * v + d) / (2 * d)) := by ring
  omega

/-- "Rounded": within half of the quotient, and at a half the number away from zero (R1). -/
theorem roundDiv_nearest (n : Int) {d : Nat} (hd : 0 < d) :
    (2 * roundDiv n d * d - d ≤ 2 * n ∧ 2 * n ≤ 2 * roundDiv n d * d + d) ∧
      (2 * n = 2 * roundDiv n d * d + d → n < 0) ∧ (2 * n = 2 * roundDiv n d * d - d → 0 < n) := by
  obtain ⟨hle, hlt⟩ := two_mul_half_up n.natAbs hd
  have hzero : n = 0 → (2 * n.natAbs + d) / (2 * d) = 0 := by
    rintro rfl
    exact Nat.div_eq_of_lt (by simp; omega)
  unfold roundDiv
  generalize (2 * n.natAbs + d) / (2 * d) = q at hle hlt hzero ⊢
  zify at hle hlt
  split
  · rename_i hn
    rw [abs_of_nonneg hn] at hle hlt
    refine ⟨by omega, by omega, fun h => ?_⟩
    rcases hn.eq_or_lt with rfl | hpos
    · simp only [hzero rfl] at h; omega
    · exact hpos
  · rename_i hn
    rw [abs_of_neg (not_le.1 hn)] at hle hlt
    have hneg : 2 * -(q : Int) * d = -(2 * q * d) := by ring
    rw [hneg]
    omega

/-! ### The peak and its offset (R76, R77, R78) -/

/-- The first of equally large entries is kept (R76). -/
theorem foldl_larger_of_le {p : Entry} : ∀ {es : List Entry}, (∀ x ∈ es, x.amp ≤ p.amp) → es.foldl larger p = p
  | [], _ => rfl
  | x :: es, h => by
    have hkept : larger p x = p := if_neg (Nat.not_lt.2 (h x (List.mem_cons_self ..)))
    rw [List.foldl_cons, hkept]
    exact foldl_larger_of_le fun y hy => h y (List.mem_cons_of_mem _ hy)

/-- The largest of some entries is one of them. -/
theorem foldl_larger_mem : ∀ (es : List Entry) (e : Entry), es.foldl larger e ∈ e :: es
  | [], e => List.mem_singleton.2 rfl
  | x :: es, e => by
    have hor : larger e x = e ∨ larger e x = x := by unfold larger; split <;> simp
    have ih := foldl_larger_mem es (larger e x)
    rw [List.foldl_cons]
    rcases List.mem_cons.1 ih with h | h
    · rcases hor with h' | h' <;> rw [h, h'] <;> simp
    · exact List.mem_cons_of_mem _ (List.mem_cons_of_mem _ h)

/-- The peak of a list that is not empty is one of its entries. -/
theorem peakEntry_mem {es : List Entry} (h : es ≠ []) : peakEntry es ∈ es := by
  cases es with
  | nil => exact absurd rfl h
  | cons e es => exact foldl_larger_mem es e

/-- The peak entry: above all before it, and no smaller than any after it (R76). -/
theorem peakEntry_append {before after : List Entry} {p : Entry} (hbefore : ∀ x ∈ before, x.amp < p.amp)
    (hafter : ∀ x ∈ after, x.amp ≤ p.amp) : peakEntry (before ++ p :: after) = p := by
  cases before with
  | nil => exact foldl_larger_of_le hafter
  | cons e es =>
    have hless : (es.foldl larger e).amp < p.amp := hbefore _ (foldl_larger_mem es e)
    have htaken : larger (es.foldl larger e) p = p := if_pos hless
    show (es ++ p :: after).foldl larger e = p
    rw [List.foldl_append, List.foldl_cons, htaken]
    exact foldl_larger_of_le hafter

/-- In a run of neighbouring loops from k on, loop k + i is found at place i, if there is one. -/
theorem find?_loop_of_run : ∀ {es : List Entry} {k : Nat} (i : Nat), (∀ j (h : j < es.length), es[j].loop = k + j) →
    es.find? (fun e => e.loop == k + i) = es[i]?
  | [], _, _, _ => rfl
  | e :: es, k, i, h => by
    have hfirst : e.loop = k := h 0 (Nat.zero_lt_succ _)
    have hrest : ∀ j (hj : j < es.length), es[j].loop = k + 1 + j := fun j hj => by
      have := h (j + 1) (Nat.succ_lt_succ hj)
      rw [List.getElem_cons_succ] at this
      omega
    cases i with
    | zero => rw [List.find?_cons_of_pos (by simp [hfirst])]; rfl
    | succ i =>
      rw [List.find?_cons_of_neg (by simp [hfirst]), List.getElem?_cons_succ, ← find?_loop_of_run i hrest]
      simp only [show k + 1 + i = k + (i + 1) by omega]

/-- The offset of a peak that lacks a list neighbour (R77). -/
theorem offsetOf_of_end {es : List Entry} {k n : Nat} (hrun : ∀ j (h : j < es.length), es[j].loop = k + j)
    (hpeak : (peakEntry es).loop = k + n) (hend : n = 0 ∨ es.length ≤ n + 1) : offsetOf es = none := by
  unfold offsetOf
  have habove : es.find? (fun e => e.loop == (peakEntry es).loop + 1) = es[n + 1]? := by
    rw [hpeak]; exact find?_loop_of_run (n + 1) hrun
  simp only [habove]
  rcases hend with rfl | hlast
  · have hbelow : es.find? (fun e => e.loop + 1 == (peakEntry es).loop) = none := by
      rw [List.find?_eq_none]
      intro e he
      obtain ⟨j, hj, rfl⟩ := List.mem_iff_getElem.1 he
      have := hrun j hj
      simp only [hpeak, beq_iff_eq]
      omega
    simp only [hbelow]
  · rw [List.getElem?_eq_none hlast]
    split <;> simp_all

/-- The offset of a peak between two list neighbours, below which it is strictly the larger (R77). -/
theorem offsetOf_of_neighbours {es : List Entry} {k n : Nat} {b a : Entry}
    (hrun : ∀ j (h : j < es.length), es[j].loop = k + j) (hpeak : (peakEntry es).loop = k + (n + 1))
    (hbelow : es[n]? = some b) (habove : es[n + 2]? = some a) (hb : b.amp < (peakEntry es).amp)
    (ha : a.amp ≤ (peakEntry es).amp) :
    offsetOf es = some (clampInt (-128) 127
      (roundDiv (128 * ((a.amp : Int) - b.amp)) (2 * (peakEntry es).amp - b.amp - a.amp))) := by
  have hfindBelow : es.find? (fun e => e.loop + 1 == (peakEntry es).loop) = some b := by
    rw [← hbelow, ← find?_loop_of_run n hrun]
    congr 1
    funext e
    rw [hpeak, Bool.eq_iff_iff, beq_iff_eq, beq_iff_eq]
    omega
  have hfindAbove : es.find? (fun e => e.loop == (peakEntry es).loop + 1) = some a := by
    rw [← habove, hpeak]; exact find?_loop_of_run (n + 2) hrun
  have hd : 2 * Int.ofNat (peakEntry es).amp - Int.ofNat b.amp - Int.ofNat a.amp =
      ((2 * (peakEntry es).amp - b.amp - a.amp : Nat) : Int) := by
    simp only [Int.ofNat_eq_natCast]; omega
  have hpos : 0 < 2 * (peakEntry es).amp - b.amp - a.amp := by omega
  unfold offsetOf
  simp only [hfindBelow, hfindAbove, hd, Int.natAbs_natCast, Int.sign_natCast_of_ne_zero hpos.ne', mul_one]
  rw [if_neg (by omega)]
  rfl

/-- An offset lies within half a loop (R77). -/
theorem offsetOf_within {es : List Entry} {v : Int} (h : offsetOf es = some v) : -128 ≤ v ∧ v ≤ 127 := by
  unfold offsetOf at h
  simp only at h
  split at h
  · cases h
    split
    · omega
    · exact clampInt_within (by omega) _
  · cases h

/-- A coordinate lies in the span of its peak loop (R78). -/
theorem coordinateOf_within (es : List Entry) :
    (((peakEntry es).loop * 256 : Nat) : Int) ≤ coordinateOf es ∧ coordinateOf es ≤ ((peakEntry es).loop * 256 : Nat) + 255 := by
  have hoffset : -128 ≤ (offsetOf es).getD 0 ∧ (offsetOf es).getD 0 ≤ 127 := by
    cases h : offsetOf es with
    | none => simp
    | some v => exact offsetOf_within h
  simp only [coordinateOf, loopCentre, Int.ofNat_eq_natCast]
  omega

/-- Settles O50: `peakEntry_append`, `offsetOf_of_end` or `offsetOf_of_neighbours` with `roundDiv_nearest`, and `coordinateOf_within`. -/
theorem peakIsInterpolated : Obligations.PeakIsInterpolated := by
  intro before after p es hrun hbefore hafter
  have hpeak : peakEntry es = p := peakEntry_append hbefore hafter
  have hlength : es.length = before.length + 1 + after.length := by simp [es]; omega
  have hloop : (peakEntry es).loop = es[0].loop + before.length := by
    have := hrun before.length (by omega)
    rw [hpeak, ← this]
    simp [es]
  have hspan := coordinateOf_within es
  rw [hpeak] at hspan
  refine ⟨hpeak, fun hend => ?_, ?_, by exact_mod_cast hspan.1, by exact_mod_cast hspan.2⟩
  · have hnone : offsetOf es = none := by
      refine offsetOf_of_end hrun hloop ?_
      rcases hend with rfl | rfl
      · exact .inl rfl
      · exact .inr hlength.le
    refine ⟨hnone, ?_⟩
    simp [coordinateOf, hnone, hpeak, loopCentre]
  · intro front b a rest hf hr n d
    subst hf hr
    have hb : b.amp < p.amp := hbefore b (by simp)
    have ha : a.amp ≤ p.amp := hafter a (by simp)
    have hsome := offsetOf_of_neighbours (n := front.length) (b := b) (a := a) hrun (by simpa using hloop)
      (by simp [es]) (by simp [es]) (by rwa [hpeak]) (by rwa [hpeak])
    rw [hpeak, clampInt_eq (by omega)] at hsome
    have hd : d = ((2 * p.amp - b.amp - a.amp : Nat) : Int) := by omega
    obtain ⟨hnear, haway⟩ := roundDiv_nearest n (d := 2 * p.amp - b.amp - a.amp) (by omega)
    rw [← hd] at hnear haway
    refine ⟨_, hnear, haway.1, haway.2, hsome, ?_⟩
    simp only [coordinateOf, hsome, hpeak, loopCentre, Option.getD_some, Int.ofNat_eq_natCast]
    push_cast
    rfl

/-! ### A weak cycle (R79, R80) -/

/-- A cycle below the loss threshold is weak (R79). -/
theorem estimate_of_weak {set : Settings} {level : Nat} {r : CycleRecord}
    (h : (peakEntry r.tipX).amp * 2 ^ (3 - level) < set.lossThreshold) (c : Chan) (pen : Pen) :
    estimate set c level r pen = estimateWeak set level r pen :=
  if_pos (decide_eq_true h)

/-- A cycle at the loss threshold or above is not weak (R79). -/
theorem estimate_of_strong {set : Settings} {level : Nat} {r : CycleRecord}
    (h : set.lossThreshold ≤ (peakEntry r.tipX).amp * 2 ^ (3 - level)) (c : Chan) (pen : Pen) :
    estimate set c level r pen = estimateStrong set c level r pen :=
  if_neg fun hweak => absurd (of_decide_eq_true hweak) (Nat.not_lt.2 h)

/-- Settles O52: `estimateWeak`, whose weak count does not reach its cap before 4. -/
theorem weakCycleIsHeld : Obligations.WeakCycleIsHeld := by
  intro set c level r pen hweak hcount e
  have he : e = estimateWeak set level r pen := estimate_of_weak hweak c pen
  have hcapped : min (pen.weakCount + 1) 4 = pen.weakCount + 1 := by omega
  have hlost : (decide (4 ≤ pen.weakCount + 1) = true) ↔ pen.weakCount = 3 := by
    rw [decide_eq_true_iff]; omega
  rw [he]
  refine ⟨rfl, rfl, rfl, rfl, rfl, rfl, rfl, ?_, rfl, hlost⟩
  simp only [estimateWeak, hcapped]

/-! ### A cycle that is not weak (R81 to R91) -/

/-- The calibration of a channel's pressure (R81). -/
theorem pressureCal_eq (set : Settings) (c : Chan) :
    pressureCal set c = (if c = .A then set.offsetA else set.offsetB, if c = .A then set.gainA else set.gainB) := by
  cases c <;> rfl

/-- The pressure of a strongest path with I above 0 (R81). -/
theorem pressureOf_of_pos {best : Strongest} (h : 0 < best.i) (q0 : Int) (kp : Nat) :
    pressureOf q0 kp best = some (max 0 (min 4095
      (Int.tdiv ((max (-4096) (min 4095 (Int.tdiv (1024 * best.q) best.i)) - q0) * kp) 256))).toNat := by
  simp only [pressureOf, if_pos h, clampInt_eq (show (-4096 : Int) ≤ 4095 by omega),
    clampInt_eq (show (0 : Int) ≤ 4095 by omega), truncDiv, Int.ofNat_eq_natCast]

/-- No pressure without a strongest path whose I is above 0 (R82). -/
theorem pressureOf_of_not_pos {best : Strongest} (h : ¬ 0 < best.i) (q0 : Int) (kp : Nat) : pressureOf q0 kp best = none :=
  if_neg h

/-- Tilt is valid with a collar that was built and is strong enough (R85). -/
theorem tiltValid_iff (set : Settings) (level : Nat) (r : CycleRecord) : tiltValid set level r = true ↔
    r.collarBuilt = true ∧ set.tiltThreshold ≤ (peakEntry r.collarX).amp * 2 ^ (3 - level) := by
  rw [tiltValid, Bool.and_eq_true, decide_eq_true_iff]
  rfl

/-- *Tilt limited* is set exactly when the clamp changes a component (R86). -/
theorem clampTilt_ne_iff (v : Int) : (clampTilt v != v) = true ↔ v < -443 ∨ 443 < v := by
  rw [clampTilt, clampInt_eq (by omega), bne_iff_ne]
  omega

/-- *Edge estimate* of an axis (R78). -/
theorem edgeEstimate_iff (mark built : Bool) (tip collar : List Entry) : edgeEstimate mark built tip collar = true ↔
    mark = true ∨ offsetOf tip = none ∨ (built = true ∧ offsetOf collar = none) := by
  simp [edgeEstimate, atListEnd, or_assoc]

/-- The ring's step gives the pen the new contact state (R87, R88). -/
@[simp] theorem hoverStep_down (m : Nat) (v : Nat × Nat) (down : Bool) (pen : Pen) : (hoverStep m v down pen).down = down := by
  cases down <;> cases hd : pen.down <;> simp [hoverStep, writeHistory, clearHistory, hd]

/-- The ring with the tip down: emptied when the pen comes down, otherwise as it was (R88). -/
theorem hoverStep_of_down (m : Nat) (v : Nat × Nat) (pen : Pen) :
    hoverStep m v true pen = if pen.down then pen else { pen with history := [], writeIndex := 0, down := true } := rfl

/-- The ring with the tip up: started anew when the pen has lifted, otherwise written at its index (R87, R88). -/
theorem hoverStep_of_up (m : Nat) (v : Nat × Nat) (pen : Pen) :
    ((hoverStep m v false pen).history, (hoverStep m v false pen).writeIndex) =
      if pen.down then ([v], 1 % m)
      else (if pen.writeIndex < pen.history.length then pen.history.set pen.writeIndex v else pen.history ++ [v],
        (pen.writeIndex + 1) % m) := by
  cases hd : pen.down <;> simp [hoverStep, writeHistory, clearHistory, hd]

/-- With the tip down the position is reported as it is (R89). -/
theorem reportedPosition_of_down {pen : Pen} (h : pen.down = true) (v : Nat × Nat) : reportedPosition v pen = (v, false) := by
  simp [reportedPosition, h]

/-- With the tip up the mean of the ring is reported (R89). -/
theorem reportedPosition_of_up {pen : Pen} (h : pen.down = false) (v : Nat × Nat) : reportedPosition v pen =
    (((pen.history.map Prod.fst).sum / pen.history.length, (pen.history.map Prod.snd).sum / pen.history.length),
      decide (1 < pen.history.length)) := by
  simp [reportedPosition, h, meanFloor]

/-- The pressure and the contact state of a cycle that is not weak (R81 to R84). -/
theorem estimateStrong_contact {set : Settings} {c : Chan} {level : Nat} {r : CycleRecord} {pen : Pen} {p : Option Nat} {down : Bool}
    (hp : pressureOf (pressureCal set c).1 (pressureCal set c).2 (strongestPath r) = p)
    (hdown : contactAfter set pen.down p = down) :
    let e := estimateStrong set c level r pen
    e.contents.flags.tipDown = down ∧ e.pen.down = down ∧ e.contents.pressure = reportedPressure pen down p ∧
      e.contents.flags.pressureHeld = p.isNone := by
  subst hp hdown
  exact ⟨rfl, hoverStep_down .., rfl, rfl⟩

/-- The position, the ring and *hover filtered* of a cycle that is not weak (R87 to R89). -/
theorem estimateStrong_position {set : Settings} {c : Chan} {level : Nat} {r : CycleRecord} {pen : Pen} {p : Option Nat} {down : Bool}
    (hp : pressureOf (pressureCal set c).1 (pressureCal set c).2 (strongestPath r) = p)
    (hdown : contactAfter set pen.down p = down) :
    let e := estimateStrong set c level r pen
    let ring := hoverStep set.historyLength (currentPosition set r) down pen
    e.pen.history = ring.history ∧ e.pen.writeIndex = ring.writeIndex ∧
      ((e.contents.x, e.contents.y), e.contents.flags.hoverFiltered) = reportedPosition (currentPosition set r) ring := by
  subst hp hdown
  exact ⟨rfl, rfl, rfl⟩

/-- The tilt of a cycle that is not weak, when it is valid (R85, R86). -/
theorem estimateStrong_tilt {set : Settings} {level : Nat} {r : CycleRecord} (hv : tiltValid set level r = true) (c : Chan)
    (pen : Pen) :
    let e := estimateStrong set c level r pen
    let tx := tiltOf set (coordinateOf r.collarX) (coordinateOf r.tipX)
    let ty := tiltOf set (coordinateOf r.collarY) (coordinateOf r.tipY)
    e.contents.tiltX = clampTilt tx ∧ e.contents.tiltY = clampTilt ty ∧ e.contents.flags.tiltHeld = false ∧
      e.contents.flags.tiltLimited = (clampTilt tx != tx || clampTilt ty != ty) := by
  simp only [estimateStrong, hv, if_true]
  exact ⟨trivial, trivial, rfl, trivial⟩

/-- The tilt of a cycle that is not weak is held when it is not valid (R85). -/
theorem estimateStrong_heldTilt {set : Settings} {level : Nat} {r : CycleRecord} (hv : tiltValid set level r = false) (c : Chan)
    (pen : Pen) :
    let e := estimateStrong set c level r pen
    e.contents.tiltX = pen.lastTiltX ∧ e.contents.tiltY = pen.lastTiltY ∧ e.contents.flags.tiltHeld = true ∧
      e.contents.flags.tiltLimited = false := by
  simp [estimateStrong, hv]

/-- Settles O51: the pressure by the sign of I, the tilt by `tiltValid_iff`, the position by the contact state. -/
theorem strongCycleIsEstimated : Obligations.StrongCycleIsEstimated := by
  intro set c level r pen best hbest hstrong e q0 kp q P down valid x y
  have he : e = estimateStrong set c level r pen := estimate_of_strong hstrong c pen
  have hpressure : pressureOf (pressureCal set c).1 (pressureCal set c).2 (strongestPath r) =
      if 0 < best.i then some P else none := by
    rw [show strongestPath r = best by simp [strongestPath, hbest], pressureCal_eq]
    by_cases hi : 0 < best.i
    · rw [if_pos hi]; exact pressureOf_of_pos hi ..
    · rw [if_neg hi]; exact pressureOf_of_not_pos hi ..
  have hcontact : contactAfter set pen.down (if 0 < best.i then some P else none) = down := by
    simp only [down]
    split <;> rfl
  have hvalid : tiltValid set level r = true ↔ valid := tiltValid_iff set level r
  obtain ⟨htip, hdown, hreported, hheld⟩ := estimateStrong_contact (level := level) hpressure hcontact
  obtain ⟨hring, hindex, hshown⟩ := estimateStrong_position (level := level) hpressure hcontact
  rw [← he] at htip hdown hreported hheld hring hindex hshown
  rw [Prod.mk.injEq, Prod.mk.injEq] at hshown
  have hedges := And.intro (edgeEstimate_iff r.edgeX r.collarBuilt r.tipX r.collarX)
    (edgeEstimate_iff r.edgeY r.collarBuilt r.tipY r.collarY)
  have hlast : e.pen.lastX = e.contents.x ∧ e.pen.lastY = e.contents.y ∧ e.pen.lastPressure = e.contents.pressure ∧
      e.pen.lastTiltX = e.contents.tiltX ∧ e.pen.lastTiltY = e.contents.tiltY := by rw [he]; exact ⟨rfl, rfl, rfl, rfl, rfl⟩
  refine ⟨by rw [he]; rfl, by rw [he]; rfl, by rw [he]; rfl, htip, hdown, fun hi => ?_, fun hi => ?_, fun hv => ?_, fun hv => ?_,
    fun hd => ?_, fun hd => ?_, by rw [he]; rfl, by rw [he]; rfl, by rw [he]; exact hedges.1, by rw [he]; exact hedges.2,
    by rw [he]; rfl, by rw [he]; rfl, by rw [he]; rfl, by rw [he]; rfl, hlast⟩
  · rw [hreported, hheld, if_pos hi]; exact ⟨rfl, rfl⟩
  · rw [hreported, hheld, if_neg (not_lt.2 hi)]; exact ⟨rfl, rfl⟩
  · intro tx ty
    obtain ⟨htx, hty, hkept, hlimited⟩ := estimateStrong_tilt (hvalid.2 hv) c pen
    rw [he, htx, hty, hkept, hlimited, Bool.or_eq_true, clampTilt_ne_iff, clampTilt_ne_iff, or_assoc]
    exact ⟨clampInt_eq (by omega) _, clampInt_eq (by omega) _, rfl, Iff.rfl⟩
  · rw [he]
    exact estimateStrong_heldTilt (Bool.eq_false_iff.2 (mt hvalid.1 hv)) c pen
  · rw [hd] at hring hindex hshown
    rw [reportedPosition_of_down (hoverStep_down ..)] at hshown
    rw [hoverStep_of_down] at hring hindex
    obtain ⟨⟨hx, hy⟩, hfiltered⟩ := hshown
    refine ⟨hx, hy, hfiltered, fun h => ?_, fun h => ?_⟩
    · rw [hring, hindex, h]; exact ⟨rfl, rfl⟩
    · rw [hring, h]; rfl
  · rw [hd] at hring hindex hshown
    rw [reportedPosition_of_up (hoverStep_down ..), ← hring] at hshown
    have hwritten := hoverStep_of_up set.historyLength (x, y) pen
    rw [show hoverStep set.historyLength (x, y) false pen = hoverStep set.historyLength (currentPosition set r) false pen from rfl,
      ← hring, ← hindex] at hwritten
    obtain ⟨⟨hx, hy⟩, hfiltered⟩ := hshown
    refine ⟨fun h => ?_, fun h => ?_, hx, hy, hfiltered⟩ <;> rw [h] at hwritten <;> exact Prod.mk.inj hwritten

end Sys2Proof.Machine
end

section
/-! PROOFS. The take of a pen that another tile yields (R74, R112, R119, R130, R131). -/

namespace Sys2Proof.Machine

/-! ### The pen record of a take (R74) -/

/-- A coordinate clamped to an extent of at least one tile (R11). -/
theorem clampExtent_natCast {set : Settings} {ax : Axis} (h : 0 < extentUnits set ax) (v : Nat) :
    clampExtent set ax (Int.ofNat v) = min v (extentUnits set ax - 1) := by
  unfold clampExtent
  rw [clampInt_eq (by simp only [Int.ofNat_eq_natCast]; omega)]
  simp only [Int.ofNat_eq_natCast]
  omega

/-- The extent along the axes, in surface units (R2, R11). -/
theorem extentUnits_eq (set : Settings) :
    extentUnits set .X = set.columns * 12288 ∧ extentUnits set .Y = set.rows * 8192 := ⟨rfl, rfl⟩

/-- The pen record of a take, its place clamped to the extent (R74). -/
theorem penOfYield_eq {set : Settings} (hcolumns : 0 < set.columns) (hrows : 0 < set.rows) (y : YieldFields) :
    let x0 := min y.x (set.columns * 12288 - 1)
    let y0 := min y.y (set.rows * 8192 - 1)
    penOfYield set y =
      { peakX := x0 / 256, peakY := y0 / 256, down := y.contact, weakCount := 0
        history := if y.contact then [] else [(x0, y0)]
        writeIndex := if y.contact then 0 else 1 % set.historyLength
        lastX := x0, lastY := y0, lastPressure := if y.contact then min y.pressure 4095 else 0
        lastTiltX := 0, lastTiltY := 0 } := by
  obtain ⟨hx, hy⟩ := extentUnits_eq set
  have hclamp : clampNat 0 4095 y.pressure = min y.pressure 4095 := by
    rw [clampNat_eq (by omega)]
    omega
  simp only [penOfYield, clampExtent_natCast (show 0 < extentUnits set .X by omega),
    clampExtent_natCast (show 0 < extentUnits set .Y by omega), hx, hy, hclamp]

/-! ### The take (R130, R131) -/

/-- The state a take leaves before the first cycle (R57, R74, R110, R111, R125, R131). -/
def State.taken (origin : Nat) (y : YieldFields) (s : State) : State :=
  { s.moved y.ch .hold with link := s.link.push (.take y.ch origin y.cycle) }.setChan y.ch
    { s.chan y.ch with
      state := .hold, level := y.level, lastStrength := 0, pen := some (penOfYield s.settings y), record := none
      cycles := some (newCycles s.settings s.now ((y.cycle + 1) % 65536) true), arming := none }

/-- A move leaves the link, and all of the channel but its state. -/
theorem moved_frame (c : Chan) (st : ChanState) (s : State) :
    (s.moved c st).link = s.link ∧ (s.moved c st).chan c = { s.chan c with state := st } := by
  unfold State.moved State.unsought State.entered
  split
  · split <;> cases c <;> exact ⟨rfl, rfl⟩
  · cases c <;> exact ⟨rfl, rfl⟩

/-- A channel that holds no pen enters HOLD, and TAKE is queued (R131). -/
theorem queueFrame_enterHold_of_unheld {y : YieldFields} {s : State} (origin : Nat) (h : (s.chan y.ch).state.unheld) :
    queueFrame (.take y.ch origin y.cycle)
      (enterHold y.ch (penOfYield s.settings y) y.level 0 ((y.cycle + 1) % 65536) true s) = s.taken origin y := by
  obtain ⟨hlink, hchan⟩ := moved_frame y.ch .hold s
  unfold enterHold State.taken
  rw [moveTo_eq_moved y.ch .hold s h, modChan_eq, hchan, ← hlink]
  generalize s.moved y.ch .hold = t
  cases y.ch <;> rfl

/-- What a take sets: the channel in HOLD, and the dormant timer stopped (R93, R131). -/
theorem taken_frame (origin : Nat) (y : YieldFields) (s : State) :
    ((s.taken origin y).chan y.ch).state = .hold ∧ ((s.taken origin y).chan y.ch).abandoned = (s.chan y.ch).abandoned ∧
      (s.taken origin y).dormant = none ∧ (s.taken origin y).settings = s.settings := by
  obtain ⟨_, hdormant, hsettings⟩ := moved_chan y.ch .hold s
  unfold State.taken
  rw [setChan_chan_same, setChan_dormant, setChan_settings]
  exact ⟨rfl, rfl, hdormant, hsettings⟩

/-- A tile takes a pen and starts its first cycle, unless an abandoned one runs on (R112, R131). -/
theorem takePen_eq {y : YieldFields} {s : State} (origin : Nat) (h : (s.chan y.ch).state.unheld) :
    takePen origin y s = match (s.chan y.ch).abandoned with
      | none => (s.taken origin y).noticed y.ch ((y.cycle + 1) % 65536)
          (newCycles s.settings s.now ((y.cycle + 1) % 65536) true) (penOfYield s.settings y) true
      | some _ => s.taken origin y := by
  obtain ⟨_, habandoned, _⟩ := taken_frame origin y s
  unfold takePen
  simp only [queueFrame_enterHold_of_unheld origin h, startFirst, habandoned]
  cases (s.chan y.ch).abandoned with
  | none =>
    exact startCycle_eq_noticed y.ch (s.taken origin y) (newCycles s.settings s.now ((y.cycle + 1) % 65536) true)
      (penOfYield s.settings y) (by rw [State.taken, setChan_chan_same]) (by rw [State.taken, setChan_chan_same])
  | some _ => rfl

/-- YIELD that names this tile on a channel it does not hold (R130). -/
theorem onYield_of_named {y : YieldFields} {s : State} (origin : Nat) (hnamed : y.target = ownIndex s.straps)
    (h : (s.chan y.ch).state.unheld) : onYield origin y s = takePen origin y s := by
  unfold onYield
  rw [if_pos hnamed]
  obtain ⟨habsent, hhold, hyield⟩ := h
  cases hst : (s.chan y.ch).state with
  | absent => exact absurd hst habsent
  | hold => exact absurd hst hhold
  | yield t => exact absurd hst (hyield t)
  | _ => rfl

/-- YIELD that names another tile, or comes on a held channel, is passed over (R130). -/
theorem onYield_of_passed {y : YieldFields} {s : State} (origin : Nat)
    (h : y.target ≠ ownIndex s.straps ∨ s.holding y.ch = true) : onYield origin y s = s := by
  unfold onYield
  split
  · rename_i hnamed
    have hholding := h.resolve_left fun hne => hne hnamed
    unfold State.holding at hholding
    cases hst : (s.chan y.ch).state <;> simp_all
  · rfl

/-- A take leaves the dormant timer stopped, its first cycle begun or not (R93). -/
theorem timeDormant_takePen {y : YieldFields} {s : State} (origin : Nat) (h : (s.chan y.ch).state.unheld)
    (he : s.enabled y.ch = true) : timeDormant (takePen origin y s) = takePen origin y s := by
  have hstopped : ∀ t : State, (t.chan y.ch).state = .hold → t.dormant = none → t.settings = s.settings → timeDormant t = t := by
    intro t hst hdormant hsettings
    have hen : t.enabled y.ch = true := by rw [← he]; unfold State.enabled; rw [hsettings]
    rw [timeDormant_of_not_seek y.ch t hen (by rw [hst]; nofun), ← hdormant]
  obtain ⟨hst, _, hdormant, hsettings⟩ := taken_frame origin y s
  rw [takePen_eq origin h]
  cases (s.chan y.ch).abandoned with
  | none =>
    obtain ⟨hdormant', hst', hsettings'⟩ := noticed_dormant y.ch ((y.cycle + 1) % 65536)
      (newCycles s.settings s.now ((y.cycle + 1) % 65536) true) (penOfYield s.settings y) true (s.taken origin y)
    exact hstopped _ (hst'.trans hst) (hdormant'.trans hdormant) (hsettings'.trans hsettings)
  | some _ => exact hstopped _ hst hdormant hsettings

/-- Settles O39: `takePen_eq` for a YIELD that names this tile, `onYield_of_passed` for any other. -/
theorem yieldIsTaken : Obligations.YieldIsTaken := by
  intro dt o y s harr c b x0 y0 pen first cycles entered held
  have hexec : exec (.yield dt (o.drop 1)) s = .next (timeDormant (onYield (originOf o) y b)) :=
    exec_command_of_pen dt harr c rfl nofun
  obtain ⟨hchan, henabled, hholding, hstraps, _, hsettings⟩ := woken_chan c (s.copied dt o)
  have hchan' : b.chan c = s.chan c := hchan
  have hset : b.settings = s.settings := hsettings
  have hen : b.enabled c = true := by
    obtain ⟨_, _, _, _, _, _, _, _, _, hen⟩ := harr
    exact henabled.trans (hen c rfl)
  have htaken : 0 < s.settings.columns → 0 < s.settings.rows → b.taken (originOf o) y = held := by
    intro hcolumns hrows
    have hpen : penOfYield b.settings y = pen := by rw [hset]; exact penOfYield_eq hcolumns hrows y
    unfold State.taken
    rw [hpen, hchan', ← (moved_frame c .hold b).1, hset]
    rfl
  have htake : y.target = ownIndex s.straps → (s.chan c).state.unheld →
      exec (.yield dt (o.drop 1)) s = .next (takePen (originOf o) y b) ∧
        takePen (originOf o) y b = match (s.chan c).abandoned with
          | none => (b.taken (originOf o) y).noticed c first (newCycles b.settings b.now first true) (penOfYield b.settings y) true
          | some _ => b.taken (originOf o) y := by
    intro hnamed hunheld
    rw [← hchan'] at hunheld
    rw [hexec, onYield_of_named _ (hnamed.trans (congrArg ownIndex hstraps.symm)) hunheld, timeDormant_takePen _ hunheld hen,
      takePen_eq _ hunheld, ← hchan']
    exact ⟨rfl, rfl⟩
  refine ⟨fun hnamed hunheld hab hcolumns hrows => ?_, fun hnamed hunheld hab hcolumns hrows => ?_, fun hpassed => ?_⟩
  · obtain ⟨hexec', hresult⟩ := htake hnamed hunheld
    rw [hexec', hresult, hab, htaken hcolumns hrows, hset, penOfYield_eq hcolumns hrows y]
    rfl
  · obtain ⟨hexec', hresult⟩ := htake hnamed hunheld
    obtain ⟨cy, hcy⟩ := Option.ne_none_iff_exists'.1 hab
    rw [hexec', hresult, hcy, htaken hcolumns hrows]
  · have hpassed' : y.target ≠ ownIndex b.straps ∨ b.holding y.ch = true :=
      hpassed.imp (fun h => by rwa [show b.straps = s.straps from hstraps]) fun h => hholding.trans h
    rw [hexec, onYield_of_passed _ hpassed']
    rfl

end Sys2Proof.Machine
end

section
/-! PROOFS. What the estimator gives a REPORT and the pen record: pressure, tilt, history ring and position in their ranges (R73, R74, R79 to R92). -/

namespace Sys2Proof.Machine

/-! ### The laws of contents and of the history ring -/

/-- What the contents of a REPORT keep (R84, R86, R89). -/
def ContentsLawful (set : Settings) (ct : Contents) : Prop :=
  ct.pressure ≤ 4095 ∧ (ct.flags.tipDown = false → ct.pressure = 0)
    ∧ -443 ≤ ct.tiltX ∧ ct.tiltX ≤ 443 ∧ -443 ≤ ct.tiltY ∧ ct.tiltY ≤ 443 ∧ OnSurface set ct.x ct.y

/-- What a pen record keeps of its history ring (R73, R87). -/
def HistoryLawful (set : Settings) (p : Pen) : Prop :=
  p.history.length ≤ set.historyLength ∧ (p.down = true → p.history = [])
    ∧ p.writeIndex < set.historyLength ∧ p.writeIndex ≤ p.history.length ∧ ∀ v ∈ p.history, OnSurface set v.1 v.2

/-- A completed REPORT is as lawful as its contents (R119). -/
theorem reportLawful_completeReport {set : Settings} {ct : Contents} (h : ContentsLawful set ct) (c : Chan) (cs : CycleState)
    (cy : Cycle) (disturbed imageDefault : Bool) : ReportLawful set (completeReport c ct cs cy disturbed imageDefault) := h

/-- The laws of a pen record are those of its last values and of its ring. -/
theorem penLawful_iff (set : Settings) (p : Pen) : PenLawful set p ↔
    (p.lastPressure ≤ 4095 ∧ -443 ≤ p.lastTiltX ∧ p.lastTiltX ≤ 443 ∧ -443 ≤ p.lastTiltY ∧ p.lastTiltY ≤ 443
      ∧ OnSurface set p.lastX p.lastY) ∧ HistoryLawful set p := by
  simp only [PenLawful, HistoryLawful, and_assoc]

/-! ### Places on the surface (R11) -/

/-- The extent is at least one tile along each axis (R161). -/
theorem SettingsLawful.extent_pos {set : Settings} (h : SettingsLawful set) : 0 < extentUnits set .X ∧ 0 < extentUnits set .Y := by
  obtain ⟨hcolumns, _, hrows, _⟩ := h
  obtain ⟨hx, hy⟩ := extentUnits_eq set
  omega

/-- The history length is at least 1 (R161). -/
theorem SettingsLawful.history_pos {set : Settings} (h : SettingsLawful set) : 1 ≤ set.historyLength := by
  obtain ⟨_, _, _, _, _, _, _, hhistory, _⟩ := h
  exact hhistory

/-- A coordinate clamped to the extent is a coordinate of the surface (R11). -/
theorem clampExtent_lt {set : Settings} {ax : Axis} (h : 0 < extentUnits set ax) (v : Int) :
    clampExtent set ax v < extentUnits set ax := by
  obtain ⟨hlo, hhi⟩ := clampInt_within (lo := 0) (hi := Int.ofNat (extentUnits set ax) - 1)
    (by simp only [Int.ofNat_eq_natCast]; omega) v
  unfold clampExtent
  simp only [Int.ofNat_eq_natCast] at hlo hhi ⊢
  omega

/-- The current position of a cycle is a point of the surface (R78). -/
theorem onSurface_currentPosition {set : Settings} (h : SettingsLawful set) (r : CycleRecord) :
    OnSurface set (currentPosition set r).1 (currentPosition set r).2 :=
  ⟨clampExtent_lt h.extent_pos.1 _, clampExtent_lt h.extent_pos.2 _⟩

/-- A mean stays below what all it is taken of stay below. -/
theorem meanFloor_lt {l : List Nat} {n : Nat} (hl : l ≠ []) (h : ∀ x ∈ l, x < n) : meanFloor l < n := by
  have hpos : 0 < l.length := List.length_pos_of_ne_nil hl
  obtain ⟨x, hx⟩ := List.exists_mem_of_ne_nil l hl
  have hn : 0 < n := Nat.zero_lt_of_lt (h x hx)
  have hsum : l.sum ≤ l.length * (n - 1) := by
    simpa using List.sum_le_card_nsmul l (n - 1) fun x hx => Nat.le_sub_one_of_lt (h x hx)
  calc meanFloor l ≤ l.length * (n - 1) / l.length := Nat.div_le_div_right hsum
    _ = n - 1 := Nat.mul_div_cancel_left _ hpos
    _ < n := Nat.sub_one_lt hn.ne'

/-! ### The history ring (R87, R88, R89) -/

/-- The ring's step keeps its laws (R87, R88). -/
theorem historyLawful_hoverStep {set : Settings} {pen : Pen} {v : Nat × Nat} (hm : 1 ≤ set.historyLength)
    (h : HistoryLawful set pen) (hv : OnSurface set v.1 v.2) (down : Bool) :
    HistoryLawful set (hoverStep set.historyLength v down pen) := by
  obtain ⟨hlength, hempty, hindex, hplace, hmem⟩ := h
  cases down with
  | true =>
    rw [hoverStep_of_down]
    split
    · exact ⟨hlength, hempty, hindex, hplace, hmem⟩
    · exact ⟨Nat.zero_le _, fun _ => rfl, hm, le_rfl, nofun⟩
  | false =>
    have hwritten := hoverStep_of_up set.historyLength v pen
    unfold HistoryLawful
    rw [hoverStep_down]
    cases hd : pen.down with
    | true =>
      rw [hd, if_pos rfl] at hwritten
      obtain ⟨hring, hnext⟩ := Prod.mk.inj hwritten
      rw [hring, hnext]
      exact ⟨hm, nofun, Nat.mod_lt _ hm, Nat.mod_le .., fun w hw => by rw [List.mem_singleton.1 hw]; exact hv⟩
    | false =>
      rw [hd, if_neg nofun] at hwritten
      obtain ⟨hring, hnext⟩ := Prod.mk.inj hwritten
      have hstep : (pen.writeIndex + 1) % set.historyLength ≤ pen.writeIndex + 1 := Nat.mod_le ..
      rw [hring, hnext]
      split
      · rename_i hinside
        refine ⟨by rwa [List.length_set], nofun, Nat.mod_lt _ hm, by rw [List.length_set]; omega, fun w hw => ?_⟩
        rcases List.mem_or_eq_of_mem_set hw with hw | rfl
        · exact hmem w hw
        · exact hv
      · refine ⟨by simp; omega, nofun, Nat.mod_lt _ hm, by simp; omega, fun w hw => ?_⟩
        rcases List.mem_append.1 hw with hw | hw
        · exact hmem w hw
        · rw [List.mem_singleton.1 hw]; exact hv

/-- With the tip up the ring holds the current position at least (R87). -/
theorem hoverStep_history_ne_nil (m : Nat) (v : Nat × Nat) (pen : Pen) : (hoverStep m v false pen).history ≠ [] := by
  have hwritten := hoverStep_of_up m v pen
  intro hnil
  rw [hnil] at hwritten
  split at hwritten
  · cases hwritten
  · have hring := (Prod.mk.inj hwritten).1
    split at hring
    · rename_i hinside
      have := congrArg List.length hring
      simp at this; omega
    · simp at hring

/-- The reported position is a point of the surface: the current one, or the mean of the ring (R89). -/
theorem onSurface_reportedPosition {set : Settings} {pen : Pen} {v : Nat × Nat} (hv : OnSurface set v.1 v.2)
    (hring : pen.down = false → pen.history ≠ []) (hmem : ∀ w ∈ pen.history, OnSurface set w.1 w.2) :
    OnSurface set (reportedPosition v pen).1.1 (reportedPosition v pen).1.2 := by
  cases hd : pen.down with
  | true => rw [reportedPosition_of_down hd]; exact hv
  | false =>
    have hne : ∀ f : Nat × Nat → Nat, pen.history.map f ≠ [] := fun f hf => hring hd (List.map_eq_nil_iff.1 hf)
    simp only [reportedPosition, hd, Bool.false_eq_true, if_false]
    refine ⟨meanFloor_lt (hne _) fun x hx => ?_, meanFloor_lt (hne _) fun x hx => ?_⟩ <;>
      obtain ⟨w, hw, rfl⟩ := List.mem_map.1 hx
    · exact (hmem w hw).1
    · exact (hmem w hw).2

/-! ### Pressure (R81 to R84) -/

/-- A pressure lies within 0 to 4095 (R81). -/
theorem pressureOf_le {q0 : Int} {kp : Nat} {st : Strongest} {p : Nat} (h : pressureOf q0 kp st = some p) : p ≤ 4095 := by
  by_cases hi : 0 < st.i
  · rw [pressureOf_of_pos hi] at h
    cases h
    omega
  · rw [pressureOf_of_not_pos hi] at h
    cases h

/-- The held pressure is in range, and 0 with the tip up (R82). -/
theorem heldPressure_lawful {pen : Pen} (h : pen.lastPressure ≤ 4095) :
    heldPressure pen ≤ 4095 ∧ (pen.down = false → heldPressure pen = 0) := by
  unfold heldPressure
  split
  · rename_i hd; exact ⟨h, fun hup => by rw [hd] at hup; cases hup⟩
  · exact ⟨Nat.zero_le _, fun _ => rfl⟩

/-- The reported pressure is in range, and 0 with the tip up (R84). -/
theorem reportedPressure_lawful {set : Settings} {pen : Pen} {p : Option Nat} (h : pen.lastPressure ≤ 4095)
    (hp : ∀ v, p = some v → v ≤ 4095) :
    reportedPressure pen (contactAfter set pen.down p) p ≤ 4095 ∧
      (contactAfter set pen.down p = false → reportedPressure pen (contactAfter set pen.down p) p = 0) := by
  cases p with
  | none => exact heldPressure_lawful h
  | some v =>
    unfold reportedPressure
    refine ⟨?_, fun hup => by simp [hup]⟩
    dsimp only
    split
    · exact hp v rfl
    · exact Nat.zero_le _

/-! ### Tilt (R86) -/

/-- A clamped tilt component is in range (R86). -/
theorem clampTilt_within (v : Int) : -443 ≤ clampTilt v ∧ clampTilt v ≤ 443 := clampInt_within (by omega) v

/-! ### The pen record at entry to HOLD (R74) -/

/-- A claim on the surface gives a lawful pen record (R74). -/
theorem penLawful_penOfClaim {set : Settings} {cl : Claim} (hset : SettingsLawful set)
    (h : LoopsOnSurface set cl.coarseX cl.coarseY) : PenLawful set (penOfClaim cl) := by
  obtain ⟨hx, hy⟩ := extentUnits_eq set
  obtain ⟨hcx, hcy⟩ := h
  have hplace : OnSurface set (penOfClaim cl).lastX (penOfClaim cl).lastY := by
    refine ⟨?_, ?_⟩ <;> simp only [penOfClaim, loopCentre, hx, hy] <;> omega
  have hupright : (-443 : Int) ≤ 0 ∧ (0 : Int) ≤ 443 := by decide
  exact (penLawful_iff ..).2 ⟨⟨Nat.zero_le _, hupright.1, hupright.2, hupright.1, hupright.2, hplace⟩,
    Nat.zero_le _, fun _ => rfl, hset.history_pos, le_rfl, nofun⟩

/-- A YIELD, whatever it carries, gives a lawful pen record (R74). -/
theorem penLawful_penOfYield {set : Settings} (hset : SettingsLawful set) (y : YieldFields) :
    PenLawful set (penOfYield set y) := by
  have hm := hset.history_pos
  have hplace : OnSurface set (penOfYield set y).lastX (penOfYield set y).lastY :=
    ⟨clampExtent_lt hset.extent_pos.1 _, clampExtent_lt hset.extent_pos.2 _⟩
  have hring : HistoryLawful set (penOfYield set y) := by
    simp only [HistoryLawful, penOfYield]
    cases y.contact
    · exact ⟨hm, nofun, Nat.mod_lt _ hm, Nat.mod_le .., fun v hv => by rw [List.mem_singleton.1 hv]; exact hplace⟩
    · exact ⟨Nat.zero_le _, fun _ => rfl, hm, le_rfl, nofun⟩
  have hpressure : (penOfYield set y).lastPressure ≤ 4095 := by
    simp only [penOfYield, clampNat_eq (show 0 ≤ 4095 by omega)]
    split <;> omega
  have hupright : (-443 : Int) ≤ 0 ∧ (0 : Int) ≤ 443 := by decide
  exact (penLawful_iff ..).2 ⟨⟨hpressure, hupright.1, hupright.2, hupright.1, hupright.2, hplace⟩, hring⟩

/-! ### Estimates (R75, R79, R92) -/

/-- The contents of a held report are lawful (R92). -/
theorem contentsLawful_heldContents {set : Settings} {pen : Pen} (level : Nat) (h : PenLawful set pen) :
    ContentsLawful set (heldContents level pen) := by
  obtain ⟨⟨hpressure, hx, hx', hy, hy', hplace⟩, _⟩ := (penLawful_iff set pen).1 h
  obtain ⟨hle, hzero⟩ := heldPressure_lawful hpressure
  exact ⟨hle, hzero, hx, hx', hy, hy', hplace⟩

/-- A weak cycle's contents are lawful, and so is its pen record (R79, R80). -/
theorem estimateWeak_lawful {set : Settings} {pen : Pen} (level : Nat) (r : CycleRecord) (h : PenLawful set pen) :
    ContentsLawful set (estimateWeak set level r pen).contents ∧ PenLawful set (estimateWeak set level r pen).pen :=
  ⟨contentsLawful_heldContents level h, h⟩

/-- The contents of a cycle that is not weak are lawful, and so is its pen record (R81 to R91). -/
theorem estimateStrong_lawful {set : Settings} {pen : Pen} (hset : SettingsLawful set) (c : Chan) (level : Nat) (r : CycleRecord)
    (h : PenLawful set pen) :
    ContentsLawful set (estimateStrong set c level r pen).contents ∧ PenLawful set (estimateStrong set c level r pen).pen := by
  obtain ⟨⟨hpressure, hx, hx', hy, hy', _⟩, hring⟩ := (penLawful_iff set pen).1 h
  have hhere := onSurface_currentPosition hset r
  obtain ⟨htip, _, hreported, _⟩ := estimateStrong_contact (set := set) (c := c) (level := level) (r := r) (pen := pen) rfl rfl
  obtain ⟨hhistory, hindex, hshown⟩ := estimateStrong_position (set := set) (c := c) (level := level) (r := r) (pen := pen) rfl rfl
  have hpress := reportedPressure_lawful (set := set) (pen := pen) hpressure fun v hv =>
    pressureOf_le (q0 := (pressureCal set c).1) (kp := (pressureCal set c).2) (st := strongestPath r) hv
  rw [← hreported, ← htip] at hpress
  have htilt : (-443 ≤ (estimateStrong set c level r pen).contents.tiltX ∧ (estimateStrong set c level r pen).contents.tiltX ≤ 443) ∧
      -443 ≤ (estimateStrong set c level r pen).contents.tiltY ∧ (estimateStrong set c level r pen).contents.tiltY ≤ 443 := by
    cases hv : tiltValid set level r with
    | true =>
      obtain ⟨htx, hty, _⟩ := estimateStrong_tilt hv c pen
      rw [htx, hty]
      exact ⟨clampTilt_within _, clampTilt_within _⟩
    | false =>
      obtain ⟨htx, hty, _⟩ := estimateStrong_heldTilt hv c pen
      rw [htx, hty]
      exact ⟨⟨hx, hx'⟩, hy, hy'⟩
  have hstep := historyLawful_hoverStep hset.history_pos hring hhere (estimateStrong set c level r pen).contents.flags.tipDown
  have hplace : OnSurface set (estimateStrong set c level r pen).contents.x (estimateStrong set c level r pen).contents.y := by
    obtain ⟨_, _, _, _, hmem⟩ := hstep
    have hon := onSurface_reportedPosition hhere (fun hup => ?_) hmem
    · rw [htip, ← hshown] at hon
      exact hon
    · rw [hoverStep_down] at hup
      rw [hup]
      exact hoverStep_history_ne_nil _ _ _
  exact ⟨⟨hpress.1, hpress.2, htilt.1.1, htilt.1.2, htilt.2.1, htilt.2.2, hplace⟩, (penLawful_iff ..).2
    ⟨⟨hpress.1, htilt.1.1, htilt.1.2, htilt.2.1, htilt.2.2, hplace⟩, hstep⟩⟩

/-- An estimate gives lawful contents and leaves a lawful pen record (R75). -/
theorem estimate_lawful {set : Settings} {pen : Pen} (hset : SettingsLawful set) (c : Chan) (level : Nat) (r : CycleRecord)
    (h : PenLawful set pen) :
    ContentsLawful set (estimate set c level r pen).contents ∧ PenLawful set (estimate set c level r pen).pen := by
  unfold estimate
  split
  · exact estimateWeak_lawful level r h
  · exact estimateStrong_lawful hset c level r h

end Sys2Proof.Machine
end

section
/-! PROOFS. A tile at work: what its REPORTs rest on, and the updates and moves of the tracker that keep it (R11, R23, R93 to R110, R120). -/

namespace Sys2Proof.Machine

/-! ### The law of a tile at work -/

/-- The windows of a sequence lie on the tile's own loops (R23). -/
def Sequence.OnOwnLoops (q : Sequence) : Prop := q.windowX ≤ 40 ∧ q.windowY ≤ 24

/-- The X peak that a pass in its Y stage remembers is a loop of the surface (R97, R98). -/
def PassOnSurface (set : Settings) (p : Option Pass) : Prop :=
  ∀ c pos g peak st k, p = some { ch := c, stage := .y pos g peak st k } → peak < set.columns * 48

/-- A tile at work, within the extent: what its REPORTs and the pen records they come from rest on (R23, R84, R86, R87, R89). -/
structure Working (s : State) : Prop where
  apart : s.apart = false
  settings : SettingsLawful s.settings
  within : beyondExtent s.straps s.settings = false
  windows : ∀ r, s.engine.running = some r → r.seq.OnOwnLoops
  peak : PassOnSurface s.settings s.seek.pass
  chan : ∀ c, ChannelOnSurface s.settings (s.chan c)
  own : ∀ r, Frame.report r ∈ s.link.own → ReportLawful s.settings r

/-- A pass in its X stage remembers no peak. -/
theorem passOnSurface_x (set : Settings) (c : Chan) (pos : Nat) : PassOnSurface set (some { ch := c, stage := .x pos }) := nofun

/-- A channel that keeps its place keeps its laws: no new claim and no new pen record. -/
theorem ChannelOnSurface.keep {set : Settings} {ch ch' : Channel} (h : ChannelOnSurface set ch)
    (hst : ch'.state = ch.state ∨ ∀ cl, ch'.state ≠ .claim cl) (hpen : ch'.pen = ch.pen ∨ ch'.pen = none) :
    ChannelOnSurface set ch' := by
  refine ⟨fun cl hcl => ?_, fun p hp => ?_⟩
  · rcases hst with hst | hst
    · exact h.1 cl (hst ▸ hcl)
    · exact absurd hcl (hst cl)
  · rcases hpen with hpen | hpen
    · exact h.2 p (hpen ▸ hp)
    · rw [hpen] at hp; cases hp

namespace Working

variable {s : State} (h : Working s)
include h

/-! ### Single updates -/

/-- What a working tile does not rest on may change. -/
theorem congr {t : State} (hapart : t.apart = s.apart := by rfl) (hset : t.settings = s.settings := by rfl)
    (hst : t.straps = s.straps := by rfl) (hrun : t.engine.running = s.engine.running := by rfl)
    (hpass : t.seek.pass = s.seek.pass := by rfl) (hchan : ∀ c, t.chan c = s.chan c := by exact fun _ => rfl)
    (hown : ∀ r, Frame.report r ∈ t.link.own → Frame.report r ∈ s.link.own := by exact fun _ => id) : Working t := by
  refine ⟨hapart.trans h.apart, ?_, ?_, fun r hr => h.windows r (hrun ▸ hr), ?_, fun c => ?_, fun r hr => ?_⟩ <;> rw [hset]
  · exact h.settings
  · rw [hst]; exact h.within
  · rw [hpass]; exact h.peak
  · rw [hchan]; exact h.chan c
  · exact h.own r (hown r hr)

/-- The engine and the detectors change, with windows on the own loops. -/
theorem engage {e : Engine} {d : List Detector} (hw : ∀ r, e.running = some r → r.seq.OnOwnLoops) :
    Working { s with engine := e, detectors := d } :=
  ⟨h.apart, h.settings, h.within, hw, h.peak, h.chan, h.own⟩

theorem setSeek {k : Seek} (hk : PassOnSurface s.settings k.pass) : Working { s with seek := k } :=
  ⟨h.apart, h.settings, h.within, h.windows, hk, h.chan, h.own⟩

theorem setMode {m : Mode} (hm : m ≠ .outside) : Working { s with mode := m } := by
  refine ⟨?_, h.settings, h.within, h.windows, h.peak, h.chan, h.own⟩
  have hapart := h.apart
  simp only [State.apart, Bool.or_eq_false_iff] at hapart ⊢
  exact ⟨hapart.1, by simpa using hm⟩

theorem setChan {c : Chan} {ch : Channel} (hch : ChannelOnSurface s.settings ch) : Working (s.setChan c ch) := by
  have hchan : ∀ d, ChannelOnSurface s.settings ((s.setChan c ch).chan d) := fun d => by
    by_cases hd : d = c
    · rw [hd, setChan_chan_same]; exact hch
    · rw [setChan_chan_ne hd]; exact h.chan d
  cases c <;> exact ⟨h.apart, h.settings, h.within, h.windows, h.peak, hchan, h.own⟩

theorem modChan {c : Chan} {g : Channel → Channel}
    (hg : ChannelOnSurface s.settings (s.chan c) → ChannelOnSurface s.settings (g (s.chan c))) : Working (s.modChan c g) :=
  h.setChan (hg (h.chan c))

theorem setState {c : Chan} {st : ChanState}
    (hst : ∀ cl, st = .claim cl → LoopsOnSurface s.settings cl.coarseX cl.coarseY) : Working (setState c st s) :=
  h.modChan fun hch => ⟨hst, hch.2⟩

/-- A frame joins the own queue; a REPORT must be lawful (R151). -/
theorem queueFrame {f : Frame} (hf : ∀ r, f = .report r → ReportLawful s.settings r) : Working (queueFrame f s) := by
  refine ⟨h.apart, h.settings, h.within, h.windows, h.peak, h.chan, fun r hr => ?_⟩
  have hmem : Frame.report r ∈ s.link.own ++ [f] := by
    rw [queueFrame_link] at hr
    unfold Link.push at hr
    split at hr
    · exact hr
    · exact List.mem_of_mem_eraseP hr
  rcases List.mem_append.1 hmem with hold | hnew
  · exact h.own r hold
  · exact hf r (List.mem_singleton.1 hnew).symm

/-- A frame of another kind than REPORT joins the own queue. -/
theorem queueOther {f : Frame} (hf : f.kind ≠ .report := by nofun) : Working (Machine.queueFrame f s) :=
  h.queueFrame fun _ hr => absurd (congrArg Frame.kind hr) hf

theorem abandonRunning (w : Job → Bool) : Working (abandonRunning w s) := by
  rw [abandonRunning_eq]
  refine h.engage fun r hr => ?_
  obtain ⟨u, hu, rfl⟩ := Option.map_eq_some_iff.1 hr
  have hwindows := h.windows u hu
  split <;> exact hwindows

theorem endPass : Working (endPass s) := h.setSeek nofun

theorem restartSeek : Working (restartSeek s) := h.setSeek nofun

theorem timeDormant : Working (timeDormant s) := h.congr

/-! ### Leaving a state and seeking (R96 to R103, R120) -/

theorem wake : Working (wake s) := by
  unfold Machine.wake
  split
  · exact (h.setMode (m := .active) nofun).setSeek (k := { s.seek with timer := _ }) h.peak
  · exact h

theorem beginPass : Working (beginPass s).1 := by
  unfold Machine.beginPass
  split
  · exact h.setSeek (passOnSurface_x _ _ _)
  · exact h

theorem abandonPass (c : Chan) : Working (abandonPass c s) := by
  unfold Machine.abandonPass
  split
  · split
    · exact Working.endPass (Working.abandonRunning (s := withdraw _ s) h.congr _)
    · exact h
  · exact h

theorem abandonCycle (c : Chan) : Working (abandonCycle c s) := by
  unfold Machine.abandonCycle
  refine (Working.abandonRunning (s := withdraw _ s) h.congr _).modChan fun hch => ?_
  split
  · split <;> exact hch
  · exact hch

theorem dropRecords (c : Chan) : Working (dropRecords c s) := h.modChan fun hch => hch.keep (.inl rfl) (.inr rfl)

theorem leaveState (c : Chan) : Working (leaveState c s) := by
  unfold Machine.leaveState
  split
  · exact h.abandonPass c
  · exact (h.abandonCycle c).dropRecords c
  · exact (h.abandonCycle c).dropRecords c
  · exact h

theorem enterSeek (c : Chan) : Working (enterSeek c s).1 := by
  have hseek := ((h.leaveState c).setState (c := c) (st := .seek) nofun).timeDormant
  unfold Machine.enterSeek
  simp only
  split
  · exact hseek.beginPass
  · exact hseek

end Working

/-- Leaving a state leaves the settings. -/
theorem leaveState_settings (c : Chan) (s : State) : (leaveState c s).settings = s.settings :=
  (leaveState_steady c s).settings

namespace Working

variable {s : State} (h : Working s)
include h

theorem moveTo {st : ChanState} (c : Chan)
    (hst : ∀ cl, st = .claim cl → LoopsOnSurface s.settings cl.coarseX cl.coarseY) : Working (moveTo c st s) := by
  have hleft := h.leaveState c
  rw [← leaveState_settings c s] at hst
  exact (hleft.setState hst).congr

theorem standBy (c : Chan) (holder : Nat) : Working (standBy c holder s) := h.moveTo c nofun

theorem deferTo (c : Chan) : Working (deferTo c s) := h.moveTo c nofun

/-- A find on the surface becomes a claim on the surface (R103). -/
theorem find (c : Chan) (strength : Nat) {x y : Nat} (hxy : LoopsOnSurface s.settings x y) : Working (find c strength x y s) := by
  have hqueued : Working (Machine.queueFrame (.sighting c strength x y) (Machine.endPass (Machine.wake s))) :=
    h.wake.endPass.queueOther
  refine hqueued.moveTo c fun cl hcl => ?_
  cases hcl
  rw [queueFrame_settings, endPass_settings, wake_settings]
  exact hxy

theorem nextGroup (c : Chan) (pos : Nat) : Working (nextGroup c pos s).1 := by
  unfold Machine.nextGroup
  split
  · exact h.setSeek (passOnSurface_x _ _ _)
  · exact h.endPass

theorem backOff : Working (backOff s) := h.setSeek nofun

end Working

/-! ### Results of seek sequences (R97, R98) -/

/-- The peak of a filled run is one of the tile's own loops (R7, R71). -/
theorem filledRun_peak_lt {s : State} {ax : Axis} {w : Nat} (f : Nat) (hw : w + 8 ≤ axisLoops ax) :
    (peakEntry (filledRun s ax f w)).loop < (place s.straps ax + 1) * axisLoops ax := by
  have hne : filledRun s ax f w ≠ [] := by
    intro hnil
    have hlength := congrArg List.length hnil
    rw [filledRun, fillDead_length, ownEntries_eq_map_surfacePath, List.length_map] at hlength
    cases hlength
  have hmem := peakEntry_mem hne
  rw [filledRun, fillDead_eq_mapIdx, List.mem_mapIdx] at hmem
  obtain ⟨i, hi, heq⟩ := hmem
  obtain ⟨n, hn, hentry⟩ := mem_ownEntries.1 (List.getElem_mem hi)
  rw [filledRun, fillDead_eq_mapIdx, ← heq]
  simp only [hentry, ownEntry_loop, toSurface, ownHi, ownLo, Nat.add_mul]
  split <;> omega

/-- An own loop of a tile within the extent is a loop of the surface (R5, R11). -/
theorem lt_extent_of_own {st : Straps} {set : Settings} {k : Nat} (ax : Axis) (hwithin : beyondExtent st set = false)
    (hk : k < (place st ax + 1) * axisLoops ax) : k < extentTiles set ax * axisLoops ax := by
  have hplace : place st ax + 1 ≤ extentTiles set ax := by
    have hnot := mt (beyondExtent_iff st set).2 (Bool.eq_false_iff.1 hwithin)
    cases ax <;> simp only [place, extentTiles] <;> omega
  exact hk.trans_le (Nat.mul_le_mul_right _ hplace)

namespace Working

variable {s : State} (h : Working s)
include h

theorem seekXResult (c : Chan) {w : Nat} (pos : Nat) (hw : w ≤ 40) : Working (seekXResult c w pos s).1 := by
  unfold Machine.seekXResult
  simp only
  split
  · refine h.setSeek ?_
    rintro _ _ _ _ _ _ ⟨⟩
    exact lt_extent_of_own .X h.within (filledRun_peak_lt _ (Nat.add_le_add_right hw 8))
  · exact h.nextGroup c pos

theorem seekYResult (c : Chan) {w peak : Nat} (pos group strength posY : Nat) (hw : w ≤ 24)
    (hpeak : peak < s.settings.columns * 48) : Working (seekYResult c w pos group peak strength posY s).1 := by
  unfold Machine.seekYResult
  simp only
  split
  · exact h.find c strength ⟨hpeak, lt_extent_of_own .Y h.within (filledRun_peak_lt _ (Nat.add_le_add_right hw 8))⟩
  split
  · refine h.setSeek ?_
    rintro _ _ _ _ _ _ ⟨⟩
    exact hpeak
  · exact h.nextGroup c pos

theorem seekResult (c : Chan) {seq : Sequence} (hw : seq.OnOwnLoops) : Working (seekResult c seq s).1 := by
  unfold Machine.seekResult
  split
  · rename_i p hp
    split
    · exact h
    split
    · exact h.backOff
    split
    · exact h.seekXResult c _ hw.1
    · rename_i pos group peak strength posY hstage
      exact h.seekYResult c pos group strength posY hw.2
        (h.peak p.ch pos group peak strength posY (by rw [hp, ← hstage]))
  · exact h

end Working

end Sys2Proof.Machine
end

section
/-! PROOFS. Holding a pen, arming and received frames keep what a working tile's REPORTs rest on (R105 to R138, R167). -/

namespace Sys2Proof.Machine

namespace Working

variable {s : State} (h : Working s)
include h

/-! ### Holding (R105, R112 to R116) -/

theorem startCycle (c : Chan) : Working (startCycle c s) := by
  unfold Machine.startCycle
  split
  · exact (h.modChan (c := c) fun hch => hch.keep (.inl rfl) (.inl rfl)).queueOther
  · exact h

theorem startFirst (c : Chan) : Working (startFirst c s) := by
  unfold Machine.startFirst
  split
  · exact h.startCycle c
  · exact h

theorem enterHold {pen : Pen} (c : Chan) (level strength first : Nat) (byTake : Bool) (hpen : PenLawful s.settings pen) :
    Working (enterHold c pen level strength first byTake s) := by
  have hmoved : Working (Machine.moveTo c .hold s) := h.moveTo c nofun
  refine hmoved.modChan fun hch => ⟨hch.1, fun p hp => ?_⟩
  cases hp
  rw [(moveTo_steady c .hold s).settings]
  exact hpen

theorem decideClaim {c : Chan} {cl : Claim} (hst : (s.chan c).state = .claim cl) : Working (decideClaim c cl s) := by
  unfold Machine.decideClaim
  split
  · exact (h.enterHold c _ _ _ _ (penLawful_penOfClaim h.settings ((h.chan c).1 cl hst))).startFirst c
  · exact h.deferTo c

theorem takePen (origin : Nat) (y : YieldFields) : Working (takePen origin y s) :=
  ((h.enterHold y.ch _ _ _ _ (penLawful_penOfYield h.settings y)).queueOther).startFirst y.ch

theorem modCycle (c : Chan) (g : Cycle → Cycle) : Working (modCycle c g s) := by
  refine h.modChan fun hch => ?_
  split <;> exact hch

theorem modRecord (c : Chan) (g : CycleRecord → CycleRecord) : Working (modRecord c g s) := h.modChan id

theorem setSpacing (c : Chan) (n : Nat) : Working (setSpacing c n s) := by
  refine h.modChan fun hch => ?_
  split <;> exact hch

theorem reachBarrier (c : Chan) (fault : Bool) : Working (reachBarrier c fault s).1 := h.modCycle c _

/-! ### The end of a cycle (R75, R118, R119, R126, R137) -/

theorem yieldTest (c : Chan) (ct : Contents) (n k : Nat) : Working (yieldTest c ct n k s) := by
  unfold Machine.yieldTest
  split
  · exact h.setSpacing c _
  split
  · exact (h.queueOther).modChan (c := c) fun hch => hch.keep (.inr nofun) (.inl rfl)
  · exact h

/-- A cycle that ends with lawful contents queues a lawful REPORT (R119). -/
theorem finishCycle {ct : Contents} (c : Chan) (disturbed lost : Bool) (hct : ContentsLawful s.settings ct) :
    Working (finishCycle c ct disturbed lost s).1 := by
  unfold Machine.finishCycle
  split
  · rename_i cs hcs
    split
    · rename_i cy hcy
      have hqueued : Working (Machine.queueFrame (.report (completeReport c ct cs cy disturbed s.loader.imageDefault)) s) :=
        h.queueFrame fun r hr => by cases hr; exact reportLawful_completeReport hct ..
      have hended := hqueued.modChan (c := c) (g := fun ch => { ch with cycles := some { cs with current := none, overrun := 0 } }) id
      simp only
      split
      · exact (hended.queueOther).enterSeek c
      · exact hended.yieldTest c ct _ _
    · exact h
  · exact h

theorem endBorderWait (c : Chan) : Working (endBorderWait c s).1 := by
  unfold Machine.endBorderWait
  split
  · rename_i r pen hr hpen
    obtain ⟨hct, hpen'⟩ := estimate_lawful h.settings c (s.chan c).level (closeRecord r) ((h.chan c).2 pen hpen)
    refine Working.finishCycle (h.modChan fun hch => ⟨hch.1, fun p hp => ?_⟩) c _ _ ?_
    · cases hp; exact hpen'
    · rw [modChan_eq, setChan_settings]; exact hct
  · exact h

theorem endHeld (c : Chan) : Working (endHeld c s).1 := by
  unfold Machine.endHeld
  split
  · rename_i pen hpen
    exact h.finishCycle c _ _ (contentsLawful_heldContents _ ((h.chan c).2 pen hpen))
  · exact h

theorem beginBorderWait (c : Chan) : Working (beginBorderWait c s).1 := by
  have hwait := h.modCycle c (fun cy => { cy with phase := .borderWait, border := some (s.now + usec 296) })
  unfold Machine.beginBorderWait
  simp only
  split
  · split
    · exact hwait.endBorderWait c
    · exact hwait
  · exact hwait

theorem tipResult (c : Chan) (seq : Sequence) : Working (tipResult c seq s).1 := by
  unfold Machine.tipResult
  split
  · split
    · exact h
    split
    · exact (h.modRecord c _).modCycle c _
    split
    · exact h.modCycle c _
    · exact h.endHeld c
  · exact h

theorem collarResult (c : Chan) (seq : Sequence) : Working (collarResult c seq s).1 := by
  unfold Machine.collarResult
  split
  · split
    · exact h
    split
    · exact h.beginBorderWait c
    · exact (h.modRecord c _).beginBorderWait c
  · exact h

theorem abandonedEnds (c : Chan) : Working (abandonedEnds c s) := by
  have hover := h.modChan (c := c) (g := fun ch => { ch with abandoned := none }) id
  unfold Machine.abandonedEnds
  simp only
  split
  · split
    · exact hover.startCycle c
    · exact hover
  · exact hover

theorem reportDue (c : Chan) : Working (reportDue c s) := by
  unfold Machine.reportDue
  split
  · exact h
  · rename_i cs hcs
    have hreached : Working (reach cs.timer s) := h.congr
    have hcounted : ∀ cs' : CycleState, Working ((reach cs.timer s).modChan c fun ch => { ch with cycles := some cs' }) :=
      fun _ => hreached.modChan id
    simp only
    split
    · split
      · exact (hcounted _).modChan id
      · exact (hcounted _).startCycle c
    · exact hcounted _

/-! ### Arming and captures (R121 to R124) -/

theorem setArming (c : Chan) (a : Option Arming) : Working (setArming c a s) := h.modChan id

theorem considerArming (c : Chan) (origin cycle : Nat) (wx wy : WantField) : Working (considerArming c origin cycle wx wy s) := by
  unfold Machine.considerArming
  split
  · exact h
  · exact h.setArming c _

theorem captureResult (c : Chan) (k : Coil) (seq : Sequence) : Working (captureResult c k seq s) := by
  unfold Machine.captureResult
  split
  · split
    · exact h
    split
    · exact h.setArming c _
    · unfold completeArming
      split
      · exact (h.setArming c none).queueOther
      · exact h.setArming c _
  · exact h

theorem ageOut (c : Chan) (a : Arming) : Working (ageOut c a s) := by
  unfold Machine.ageOut
  split
  · exact (h.setArming c none).queueOther
  · exact h.setArming c none

theorem onBorder (origin : Nat) (b : Border) : Working (onBorder origin b s).1 := by
  unfold Machine.onBorder
  split
  · unfold takeBorder
    split
    · have hmerged := h.modRecord b.ch (mergeBorder s.straps origin b)
      simp only
      split
      · split
        · exact (hmerged.modCycle b.ch _).endBorderWait b.ch
        · exact hmerged.modCycle b.ch _
      · exact hmerged
    · exact h
  · exact h

/-! ### ACTIVE after the double sweep and after a restart (R50, R95, R109, R167) -/

theorem becomeActive : Working (becomeActive s).1 := by
  have hactive : Working (Machine.setState .A .seek { s with mode := .active }) :=
    (h.setMode (m := .active) nofun).setState nofun
  unfold Machine.becomeActive
  simp only
  split
  · exact (hactive.setState (c := .B) (st := .seek) nofun).timeDormant.beginPass
  · exact hactive.timeDormant.beginPass

theorem restartChannel (c : Chan) : Working (restartChannel c s) :=
  ((h.abandonCycle c).dropRecords c).modChan fun hch => hch.keep (.inr nofun) (.inl rfl)

theorem restartCommon : Working (restartCommon s) := by
  have hengine : Working (restartEngine s) := (h.abandonRunning _).congr
  exact ((hengine.restartChannel .A).restartChannel .B).restartSeek.congr (hown := fun _ hr => absurd hr List.not_mem_nil)

theorem softRestart : Working (softRestart s).1 := by
  unfold Machine.softRestart
  split
  · exact h.restartCommon
  · exact Working.becomeActive h.restartCommon.congr

/-! ### Received frames (R102 to R138) -/

theorem holderHeard (c : Chan) (origin : Nat) : Working (holderHeard c origin s) := by
  have hduel : Working (duel c origin s) := by
    unfold duel
    split
    · exact h
    · exact h.standBy c origin
  unfold Machine.holderHeard
  split
  · exact h
  · exact hduel
  · exact hduel
  all_goals exact h.standBy c origin

/-- Another's sighting leaves a claim's own place (R104). -/
theorem onSighting (c : Chan) (origin strength : Nat) : Working (onSighting c origin strength s) := by
  unfold Machine.onSighting
  split
  · exact h.deferTo c
  · rename_i cl hst
    refine h.setState fun cl' hcl' => ?_
    cases hcl'
    have hplace : (cl.hear (strength, origin)).coarseX = cl.coarseX ∧ (cl.hear (strength, origin)).coarseY = cl.coarseY := by
      unfold Claim.hear
      split
      · exact ⟨rfl, rfl⟩
      · split <;> exact ⟨rfl, rfl⟩
    rw [hplace.1, hplace.2]
    exact (h.chan c).1 cl hst
  · exact h

theorem onYield (origin : Nat) (y : YieldFields) : Working (onYield origin y s) := by
  unfold Machine.onYield
  split
  · split
    · exact h.takePen origin y
    · exact h.takePen origin y
    · exact h.takePen origin y
    · exact h.takePen origin y
    · exact h
  · exact h

theorem onTake (c : Chan) (origin releaser : Nat) : Working (onTake c origin releaser s) := by
  unfold Machine.onTake
  split
  · exact h.standBy c origin
  · exact h.holderHeard c origin

theorem onLost (c : Chan) (origin : Nat) : Working (onLost c origin s).1 := by
  unfold Machine.onLost
  split
  · exact h.enterSeek c
  · split
    · exact h.enterSeek c
    · exact h
  · exact h

theorem penEffect (origin : Nat) (f : Frame) : Working (penEffect origin f s).1 := by
  cases f with
  | sighting ch strength x y => exact h.onSighting ch origin strength
  | notice ch cycle strength wx wy => exact (h.holderHeard ch origin).considerArming ch origin cycle wx wy
  | report r => exact h.holderHeard r.ch origin
  | yield y => exact h.onYield origin y
  | take ch releaser cycle => exact h.onTake ch origin releaser
  | lost ch cycle => exact h.onLost ch origin
  | border b => exact h
  | restart => exact h

/-- A copy at the tracker, whatever its kind (R14, R95, R117, R167). -/
theorem onCopy (origin : Nat) (f : Frame) : Working (onCopy origin f s).1 := by
  unfold Machine.onCopy
  split
  · exact h.softRestart
  · split
    · exact h.onBorder origin _
    · exact h
  · split
    · exact (h.wake.penEffect origin _).timeDormant
    · exact h
  · exact h

end Working

end Sys2Proof.Machine
end

section
/-! PROOFS. The engine, the arbiter, the ends of sequences and the timers keep what a working tile's REPORTs rest on (R16 to R35, R111 to R135). -/

namespace Sys2Proof.Machine

/-! ### Windows of the sequences that begin (R23, R30, R46) -/

/-- A window start clamped into its range lies on the own loops (R23). -/
theorem windowIn_le (w : Nat) : windowIn .X w ≤ 40 ∧ windowIn .Y w ≤ 24 := ⟨Nat.min_le_right .., Nat.min_le_right ..⟩

theorem onOwnLoops_sequenceOf (r : Request) (s : State) : (sequenceOf r s).OnOwnLoops := by
  unfold sequenceOf
  split
  · exact ⟨(windowIn_le _).1, (windowIn_le _).2⟩
  · exact ⟨(windowIn_le _).1, (windowIn_le _).2⟩
  · exact ⟨(windowIn_le _).1, Nat.zero_le _⟩
  · exact ⟨(windowIn_le _).1, (windowIn_le _).2⟩

theorem onOwnLoops_baselineSequence (s : State) : (baselineSequence s).OnOwnLoops := ⟨(windowIn_le _).1, (windowIn_le _).2⟩

theorem onOwnLoops_captureSequence (c : Chan) (k : Coil) (a : Arming) (st : Straps) : (captureSequence c k a st).OnOwnLoops := by
  have hedge : edgeStart st .X a.side ≤ 40 ∧ edgeStart st .Y a.side ≤ 24 := by
    unfold edgeStart
    simp only [axisLoops]
    constructor <;> split <;> omega
  simp only [Sequence.OnOwnLoops, captureSequence]
  constructor <;> split <;> omega

namespace Working

variable {s : State} (h : Working s)
include h

/-! ### The engine and the arbiter (R16 to R35) -/

theorem enterPhase {seq : Sequence} (ph : Phase) (hw : seq.OnOwnLoops) : Working (enterPhase ph seq s) :=
  h.engage fun r hr => by cases hr; exact hw

theorem startSequence {seq : Sequence} (ph : Phase) (hw : seq.OnOwnLoops) : Working (startSequence ph seq s) := by
  have hcleared : Working { s with engine := { s.engine with paths := Engine.atReset.paths } } := h.congr
  unfold Machine.startSequence
  simp only
  split
  · exact Working.enterPhase (s := setDetector _ .masked _) hcleared.congr ph hw
  · exact hcleared.enterPhase ph hw

theorem fieldFalls (f : Nat) : Working (fieldFalls f s) := by
  unfold Machine.fieldFalls
  split
  · have hquiet : Working (setDetector f .quiet s) := h.congr
    unfold fallReported
    split
    · split
      · exact (hquiet.setArming _ _).startSequence .settle (onOwnLoops_captureSequence ..)
      · exact hquiet
    · exact hquiet
  · exact h

theorem grant : Working (grant s) := by
  rcases grant_cases s with ⟨q, _, hg⟩ | ⟨_, _, q, _, hg⟩ | ⟨_, r, q, _, _, _, hg⟩ <;> rw [hg]
  · exact h.congr
  · exact Working.startSequence (s := { s with queue := q }) h.congr .listen (onOwnLoops_baselineSequence s)
  · exact Working.startSequence (s := { s with queue := q }) h.congr .drive (onOwnLoops_sequenceOf r s)

theorem submit (o : Option Request) : Working (submit o s) := by
  cases o with
  | none => exact h
  | some r => exact Working.grant (s := { s with queue := enqueue r s.queue }) h.congr

theorem baselineResult (slot : Nat) (seq : Sequence) : Working (baselineResult slot seq s).1 := by
  have hbase : ∀ b : Baseline, Working { s with baseline := b } := fun _ => h.congr
  unfold Machine.baselineResult
  split
  · exact h
  split
  · unfold sweepResult
    simp only
    split
    · exact Working.becomeActive (s := endSweep _) (hbase _)
    · exact hbase _
  · exact hbase _

/-- The end of a sequence with its windows on the own loops (R26). -/
theorem conclude {seq : Sequence} (hw : seq.OnOwnLoops) : Working (conclude seq s).1 := by
  unfold Machine.conclude
  split
  · unfold discard
    split
    · exact h.abandonedEnds _
    · exact h.abandonedEnds _
    · exact h
  · unfold deliver
    cases seq.job with
    | tip c => exact h.tipResult c seq
    | collar c => exact h.collarResult c seq
    | seekX c => exact h.seekResult c hw
    | seekY c => exact h.seekResult c hw
    | capture c k => exact h.captureResult c k seq
    | baseline slot => exact h.baselineResult slot seq

theorem endSequence {seq : Sequence} (fall : Option Freq) (hw : seq.OnOwnLoops) : Working (endSequence seq fall s) := by
  have hidle : Working (goIdle (Machine.conclude seq s).1) := (h.conclude hw).engage nofun
  refine Working.submit (Working.grant ?_) _
  cases fall with
  | none => exact hidle
  | some f => exact hidle.fieldFalls f.val

theorem listenOver {seq : Sequence} (fall : Option Freq) (hw : seq.OnOwnLoops) : Working (listenOver seq fall s) := by
  unfold Machine.listenOver
  split
  · exact Working.enterPhase (s := setDetector _ .masked s) h.congr .damp hw
  · exact h.endSequence fall hw

theorem riseReported (f : Nat) (l : Sampled) (fall : Option Freq) : Working (riseReported f l fall s) := by
  unfold Machine.riseReported
  split
  · rename_i r hrun
    have hw : ({ r.seq with disturbed := true } : Sequence).OnOwnLoops := h.windows r hrun
    split
    · split
      · exact h.listenOver fall hw
      · rw [sampleUntilCut_eq_hearing]
        exact Working.listenOver (s := s.hearing _) h.congr fall hw
      · exact h
      · exact h
    · exact h
  · exact h

theorem phaseEnds {f : Sequence → State → State} (ph : Phase)
    (hf : ∀ (u : State) (seq : Sequence), seq.OnOwnLoops → Working u → Working (f seq u)) : Working (phaseEnds ph f s) := by
  unfold Machine.phaseEnds
  split
  · rename_i r hrun
    split
    · exact hf _ r.seq (h.windows r hrun) h.congr
    · exact h
  · exact h

theorem driveOver {seq : Sequence} (foreign : Bool) (hw : seq.OnOwnLoops) : Working (driveOver foreign seq s) := by
  have hsettled : Working (Machine.enterPhase .settle seq (unmask seq.job.freq foreign s)) :=
    Working.enterPhase (s := unmask seq.job.freq foreign s) h.congr .settle hw
  unfold Machine.driveOver
  simp only
  split
  · exact hsettled.riseReported _ _ none
  · exact hsettled

theorem fieldRises (f : Nat) (l : Sampled) (fall : Option Freq) : Working (fieldRises f l fall s) := by
  unfold Machine.fieldRises
  split
  · exact Working.riseReported (s := setDetector f .present s) h.congr f l fall
  · exact h

/-! ### The timers -/

theorem reach (n : Nat) : Working (reach n s) := h.congr

theorem expires {timer : Option Nat} {f : Nat → State → State} (hf : ∀ t u, Working u → Working (f t u)) :
    Working (expires timer f s) := by
  cases timer with
  | none => exact h
  | some t => exact hf t _ (h.reach t)

theorem refreshDue (t : Nat) : Working (refreshDue t s) := Working.grant h.congr

theorem goDormant (t : Nat) : Working (goDormant t s) := (h.setMode (m := .dormant) nofun).congr

theorem seekDue (t : Nat) : Working (seekDue t s) :=
  Working.submit (h.setSeek (k := { s.seek with timer := none }) h.peak).beginPass _

theorem backoffDue (t : Nat) : Working (backoffDue t s) :=
  Working.submit (h.setSeek (k := { s.seek with backoff := none }) h.peak).beginPass _

theorem claimDue (c : Chan) : Working (claimDue c s) := by
  unfold Machine.claimDue
  split
  · rename_i cl hst
    exact (h.reach _).decideClaim (by rw [reach_chan]; exact hst)
  · exact h

theorem deferDue (c : Chan) : Working (deferDue c s) := by
  unfold Machine.deferDue
  split
  · exact ((h.reach _).enterSeek c).submit _
  · exact h

theorem viewDue (c : Chan) : Working (viewDue c s) := by
  unfold Machine.viewDue
  split
  · exact ((h.reach _).enterSeek c).submit _
  · exact h

theorem barrierDue (c : Chan) : Working (barrierDue c s) := by
  unfold Machine.barrierDue
  split
  · exact h.expires fun _ _ hu => (hu.reachBarrier c true).submit _
  · exact h

theorem borderDue (c : Chan) : Working (borderDue c s) := by
  unfold Machine.borderDue
  split
  · exact h.expires fun _ _ hu => (hu.endBorderWait c).submit _
  · exact h

theorem yieldDue (c : Chan) : Working (yieldDue c s) := by
  unfold Machine.yieldDue
  split
  · exact ((h.reach _).setState (st := .hold) nofun).setSpacing c 8
  · exact h

theorem ageDue (c : Chan) : Working (ageDue c s) := by
  unfold Machine.ageDue
  split
  · exact (h.reach _).ageOut c _
  · exact h

/-! ### Own frames that return (R105, R114) -/

theorem onReturn (k : Kind) (o : List Byte) : Working (onReturn k o s).1 := by
  unfold Machine.onReturn
  split
  · unfold noticeReturns
    split
    · split
      · split
        · exact h.reachBarrier _ false
        · exact h
      · exact h
    · exact h
  · unfold sightingReturns
    split
    · rename_i hst; exact h.decideClaim hst
    · exact h
  · exact h

end Working

end Sys2Proof.Machine
end

section
/-! PROOFS. A tile apart from the work, the image's settings and the link: every step keeps the laws of a REPORT (O59). -/

namespace Sys2Proof.Machine

/-! ### A tile apart from the work (R34, R38, R166, R168) -/

/-- A timer that is stopped does not expire (log 3). -/
theorem expires_of_stopped {timer : Option Nat} (h : timer = none) (f : Nat → State → State) (s : State) :
    expires timer f s = s := by rw [h]; rfl

namespace Still

variable {s : State} (h : Still s)
include h

theorem no_arming (c : Chan) : (s.chan c).arming = none := by
  obtain ⟨_, _, _, _, _, harming⟩ := h.empty c
  exact harming

/-- An empty channel has no claim and no pen. -/
theorem channelOnSurface (set : Settings) (c : Chan) : ChannelOnSurface set (s.chan c) := by
  obtain ⟨hstate, _, hpen, _⟩ := h.empty c
  exact ⟨fun cl hcl => (by rw [hstate] at hcl; cases hcl), fun p hp => by rw [hpen] at hp; cases hp⟩

/-- A rise is recorded by a still tile, and that is all (R27, R28). -/
theorem fieldRises (f : Nat) (l : Sampled) (fall : Option Freq) : ∃ d, fieldRises f l fall s = { s with detectors := d } := by
  unfold Machine.fieldRises
  split
  · have hrun : (setDetector f .present s).engine.running = none := h.running
    rw [riseReported, hrun]
    exact ⟨_, rfl⟩
  · exact ⟨_, rfl⟩

/-- A fall is recorded by a still tile, and that is all (R27, R30). -/
theorem fieldFalls (f : Nat) : ∃ d, fieldFalls f s = { s with detectors := d } := by
  unfold Machine.fieldFalls
  split
  · have harming : ((setDetector f .quiet s).chan (freqChan f)).arming = none := h.no_arming _
    rw [fallReported, harming]
    exact ⟨s.detectors.set f .quiet, by cases (setDetector f .quiet s).engine.running <;> rfl⟩
  · exact ⟨_, rfl⟩

end Still

/-- A tile held in reset, reading its image or OUTSIDE, with nothing to do. -/
structure Resting (s : State) : Prop where
  apart : s.apart = true
  still : Still s
  read : ReadInStart s

namespace Resting

variable {s : State} (h : Resting s)
include h

/-- What a resting tile leaves alone keeps it resting. -/
theorem congr {t : State} (hapart : t.apart = s.apart := by rfl) (hmode : t.mode = s.mode := by rfl)
    (hload : t.loader = s.loader := by rfl) (hrun : t.engine.running = s.engine.running := by rfl)
    (hq : t.queue = s.queue := by rfl) (hown : t.link.own.length ≤ s.link.own.length := by exact le_rfl)
    (hchan : ∀ c, t.chan c = s.chan c := by exact fun _ => rfl) (hbase : t.baseline = s.baseline := by rfl)
    (hseek : t.seek = s.seek := by rfl) (hd : t.dormant = s.dormant := by rfl) : Resting t := by
  refine ⟨hapart.trans h.apart, h.still.same hrun hq hown hchan hbase ?_ ?_ ?_ hd ?_, fun hread => ?_⟩
  · rw [hseek]
  · rw [hseek]
  · rw [hseek]
  · rw [State.tracking, hmode]; exact h.still.tracking
  · rw [hmode]; exact h.read (hload ▸ hread)

/-- A copy has no effect on a resting tile, but for a RESTART that finds it reading its image (R95, R167). -/
theorem onCopy (origin : Nat) (f : Frame) (hmode : s.mode ≠ .outside) :
    Machine.onCopy origin f s = (s, none) ∨ (s.mode = .start ∧ Machine.onCopy origin f s = (restartCommon s, none)) := by
  have hstart : s.mode = .start := by
    obtain ⟨hactive, hdormant⟩ := h.still.mode
    cases hm : s.mode with
    | start => rfl
    | active => exact absurd hm hactive
    | dormant => exact absurd hm hdormant
    | outside => exact absurd hm hmode
  have hoff := h.still.tracking
  unfold Machine.onCopy
  split
  · exact .inr ⟨hstart, by rw [softRestart, if_pos hstart]⟩
  · exact .inl (by rw [hoff, if_neg nofun])
  · exact .inl (by rw [hoff, Bool.false_and, if_neg nofun])
  · exact .inl rfl

theorem restartCommon (hstart : s.mode = .start) : Resting (restartCommon s) := by
  have hsteady := restartCommon_steady s
  have hmode : (Machine.restartCommon s).mode = .start := hsteady.mode.elim (fun hm => hm.trans hstart) fun hm => by
    rw [hstart] at hm; cases hm.1
  refine ⟨?_, h.still.restartCommon, fun _ => hmode⟩
  rw [State.apart, hsteady.inReset, hsteady.loader, hmode, ← hstart]
  exact h.apart

/-- The return of an own frame finds nothing that awaits it (R105, R114). -/
theorem onReturn (k : Kind) (o : List Byte) : Machine.onReturn k o s = (s, none) := by
  have hcycles : ∀ c, (s.chan c).cycles = none := fun c => (h.still.bare c).2.1
  have hstate : ∀ c, (s.chan c).state = .absent := fun c => (h.still.empty c).1
  unfold Machine.onReturn
  split
  · rw [noticeReturns, hcycles]
  · rw [sightingReturns, hstate]
  · rfl

end Resting

/-! ### The laws of a REPORT, at rest and at work -/

theorem reportsLawful_iff (s : State) : ReportsLawful s ↔ SettingsLawful s.settings ∧ (Resting s ∨ Working s) := by
  constructor
  · rintro ⟨hread, hquiet, hset, hwithin, hwindows, hpeak, hA, hB, hown⟩
    refine ⟨hset, ?_⟩
    by_cases hapart : s.apart = true
    · exact .inl ⟨hapart, (quietWhenApart_iff s).1 hquiet hapart, hread⟩
    · have hwork := Bool.eq_false_iff.2 hapart
      refine .inr ⟨hwork, hset, hwithin hwork, hwindows, hpeak, fun c => ?_, hown⟩
      cases c
      · exact hA
      · exact hB
  · rintro ⟨hset, hrest | hwork⟩
    · have hstill := hrest.still
      have hchan := hstill.channelOnSurface s.settings
      refine ⟨hrest.read, (quietWhenApart_iff s).2 fun _ => hstill, hset, fun ha => ?_, fun r hr => ?_, ?_, hchan .A, hchan .B,
        fun r hr => ?_⟩
      · rw [hrest.apart] at ha; cases ha
      · rw [hstill.running] at hr; cases hr
      · rw [hstill.pass]; nofun
      · rw [hstill.own] at hr; exact absurd hr List.not_mem_nil
    · have hapart := hwork.apart
      have hnot := hapart
      simp only [State.apart, Bool.or_eq_false_iff] at hnot
      refine ⟨fun hr => ?_, fun ha => ?_, hset, fun _ => hwork.within, hwork.windows, hwork.peak, hwork.chan .A, hwork.chan .B,
        hwork.own⟩
      · rw [hnot.1.2] at hr; cases hr
      · rw [hapart] at ha; cases ha

theorem Working.lawful {s : State} (h : Working s) : ReportsLawful s := (reportsLawful_iff s).2 ⟨h.settings, .inr h⟩

theorem Resting.lawful {s : State} (h : Resting s) (hset : SettingsLawful s.settings) : ReportsLawful s :=
  (reportsLawful_iff s).2 ⟨hset, .inl h⟩

/-! ### The settings an image gives (R161, R164) -/

/-- "Clamped to lo..hi" lies in its range (R1). -/
theorem clampNat_within {lo hi : Nat} (h : lo ≤ hi) (v : Nat) : lo ≤ clampNat lo hi v ∧ clampNat lo hi v ≤ hi := by
  rw [clampNat_eq h]
  omega

/-- A dead-loop list: of loops below 80, each held once (R52). -/
def DeadListed (l : List Nat) : Prop := l.Nodup ∧ ∀ n ∈ l, n < 80

/-- Loops joined to a dead-loop list leave one, longer by no more than their number (R52, R164). -/
theorem deadListed_foldl_addDead : ∀ (ns : List Nat) {l : List Nat}, DeadListed l →
    DeadListed (ns.foldl addDead l) ∧ (ns.foldl addDead l).length ≤ l.length + ns.length
  | [], _, h => ⟨h, le_rfl⟩
  | n :: ns, l, h => by
    have hjoined : DeadListed (addDead l n) ∧ (addDead l n).length ≤ l.length + 1 := by
      unfold addDead
      split
      · exact ⟨h, Nat.le_succ _⟩
      · rename_i hnew
        have hn : n ∉ l := fun hmem => hnew (.inr (by simpa using hmem))
        refine ⟨⟨List.nodup_append'.2 ⟨h.1, List.nodup_singleton n, by simpa using hn⟩, fun m hm => ?_⟩, by simp⟩
        rcases List.mem_append.1 hm with hm | hm
        · exact h.2 m hm
        · rw [List.mem_singleton.1 hm]; omega
    obtain ⟨hrest, hlength⟩ := deadListed_foldl_addDead ns hjoined.1
    rw [List.foldl_cons, List.length_cons]
    exact ⟨hrest, by omega⟩

/-- The settings of an image that passed its check are in their ranges (R164). -/
theorem settingsLawful_settingsOf (o : List Byte) : SettingsLawful (settingsOf o) := by
  obtain ⟨hcolumns, hcolumns'⟩ := clampNat_within (lo := 1) (hi := 6) (by omega) (octetAt o 1)
  obtain ⟨hrows, hrows'⟩ := clampNat_within (lo := 1) (hi := 4) (by omega) (octetAt o 2)
  obtain ⟨hinterval, hinterval'⟩ := clampNat_within (lo := 4) (hi := 40) (by omega) (octetAt o 5)
  obtain ⟨hhistory, hhistory'⟩ := clampNat_within (lo := 1) (hi := 8) (by omega) (octetAt o 6)
  obtain ⟨hseparation, hseparation'⟩ := clampNat_within (lo := 400) (hi := 1600) (by omega) (word2 o 15)
  obtain ⟨hoffsetA, hoffsetA'⟩ := clampInt_within (lo := -2048) (hi := 2047) (by omega) (signed16 (word2 o 17))
  obtain ⟨hgainA, hgainA'⟩ := clampNat_within (lo := 16) (hi := 1023) (by omega) (word2 o 19)
  obtain ⟨hoffsetB, hoffsetB'⟩ := clampInt_within (lo := -2048) (hi := 2047) (by omega) (signed16 (word2 o 21))
  obtain ⟨hgainB, hgainB'⟩ := clampNat_within (lo := 16) (hi := 1023) (by omega) (word2 o 23)
  obtain ⟨hdown, hdown'⟩ := clampNat_within (lo := 1) (hi := 4095) (by omega) (word2 o 25)
  have hlisten : listenOf (octetAt o 4) = 8 ∨ listenOf (octetAt o 4) = 16 ∨ listenOf (octetAt o 4) = 32 := by
    unfold listenOf
    split
    · simp
    · split <;> simp
  have hup : contactUpOf (clampNat 1 4095 (word2 o 25)) (word2 o 27) < clampNat 1 4095 (word2 o 25) := by
    unfold contactUpOf
    split <;> omega
  have htrims : (imageTrims o).length = 80 := by simp [imageTrims]
  obtain ⟨⟨hnodup, hbelow⟩, hlength⟩ :=
    deadListed_foldl_addDead ((List.range 8).map fun k => octetAt o (109 + k)) (l := []) ⟨List.nodup_nil, nofun⟩
  have hdead : (imageDead o).length ≤ 8 := hlength.trans (by simp)
  exact ⟨hcolumns, hcolumns', hrows, hrows', hlisten, hinterval, hinterval', hhistory, hhistory', hseparation, hseparation',
    hoffsetA, hoffsetA', hgainA, hgainA', hoffsetB, hoffsetB', hgainB, hgainB', hdown, hdown', hup, htrims, hdead, hnodup, hbelow⟩

/-- The settings after the image check are in their ranges, of a good image or of the default one (R163, R164). -/
theorem settingsLawful_loadImage (o : List Byte) (s : State) : SettingsLawful (loadImage o s).settings := by
  unfold loadImage
  split
  · exact settingsLawful_settingsOf o
  · exact settingsLawful_atPowerOn

namespace ReportsLawful

variable {s : State} (h : ReportsLawful s)
include h

theorem settings : SettingsLawful s.settings := ((reportsLawful_iff s).1 h).1

theorem resting_or_working : Resting s ∨ Working s := ((reportsLawful_iff s).1 h).2

/-- The link changes, and no frame is new in the own queue. -/
theorem relink {l : Link} (hown : l.own.Sublist s.link.own) : ReportsLawful { s with link := l } := by
  rcases h.resting_or_working with hrest | hwork
  · exact Resting.lawful (hrest.congr (hown := hown.length_le)) h.settings
  · exact Working.lawful (hwork.congr (hown := fun _ hr => hown.subset hr))

theorem clock (n : Nat) : ReportsLawful { s with now := n } := h

/-- A meaning that does nothing to a tile at rest but to its detectors. -/
theorem unlessReset {f : State → State} (hrest : Still s → ∃ d, f s = { s with detectors := d })
    (hwork : Working s → Working (f s)) : ReportsLawful (unlessReset f s) := by
  unfold Machine.unlessReset
  split
  · exact h
  · rcases h.resting_or_working with hr | hw
    · obtain ⟨d, hd⟩ := hrest hr.still
      rw [hd]
      exact Resting.lawful hr.congr h.settings
    · exact (hwork hw).lawful

/-! ### The link (R141 to R156) -/

theorem ownReturns (o : List Byte) : ReportsLawful (ownReturns o s) := by
  unfold Machine.ownReturns
  split
  · exact h
  · rename_i k _
    rcases h.resting_or_working with hr | hw
    · rw [hr.onReturn]; exact h
    · exact ((hw.onReturn k o).submit _).lawful

theorem handCopy (o : List Byte) : ReportsLawful (handCopy o s) := by
  unfold Machine.handCopy
  split
  · exact h
  · rename_i hmode
    split
    · exact h
    · split
      · rename_i f _
        rcases h.resting_or_working with hr | hw
        · rcases hr.onCopy (originOf o) f hmode with heq | ⟨hstart, heq⟩ <;> rw [heq]
          · exact h
          · exact (hr.restartCommon hstart).lawful (by
              rw [show (restartCommon s).settings = s.settings from (restartCommon_steady s).settings]; exact h.settings)
        · exact ((hw.onCopy (originOf o) f).submit _).lawful
      · exact h

theorem receiveFrame (o : List Byte) : ReportsLawful (receiveFrame o s) := by
  unfold Machine.receiveFrame
  split
  · exact h
  split
  · exact h.ownReturns o
  split
  · exact h
  split
  · exact h
  · exact (h.relink (l := { s.link with buffer := s.link.buffer ++ [o] }) (List.Sublist.refl _)).handCopy o

theorem setReception (r : Option (List Byte)) : ReportsLawful (setReception r s) := h.relink (List.Sublist.refl _)

theorem symbolUp (sym : Symbol) : ReportsLawful (symbolUp sym s) := by
  unfold Machine.symbolUp
  split
  · exact h.setReception _
  · split <;> exact h.setReception _
  · split
    · exact (h.setReception none).receiveFrame _
    · exact h.setReception _
  · exact h.setReception _
  · exact h.setReception _
  · exact h

theorem symbolDown (sym : Symbol) : ReportsLawful (symbolDown sym s) := by
  unfold Machine.symbolDown
  split
  · exact h.relink (List.Sublist.refl _)
  · split <;> exact h.relink (List.Sublist.refl _)

theorem receiveSymbol (sym : Symbol) : ReportsLawful (receiveSymbol s sym) := by
  have hheard : ReportsLawful (if sym = .invalid then s else heardSymbol s) := by
    split
    · exact h
    · exact h.relink (List.Sublist.refl _)
  have htaken : ∀ u : State, ReportsLawful u →
      ReportsLawful (if u.link.up then Machine.symbolUp sym u else Machine.symbolDown sym u) := by
    intro u hu
    split
    · exact hu.symbolUp sym
    · exact hu.symbolDown sym
  exact htaken _ hheard

omit h in
theorem receiveSymbols (l : List Symbol) : ∀ {s : State}, ReportsLawful s → ReportsLawful (receiveSymbols l s) := by
  induction l with
  | nil => exact id
  | cons sym l ih => exact fun hs => ih (hs.receiveSymbol sym)

theorem linkFalls : ReportsLawful (linkFalls s) := by
  unfold Machine.linkFalls
  split
  · exact h
  · exact (h.clock _).relink (List.Sublist.refl _)

theorem putOnLine (own : Bool) (octets : List Byte) : ReportsLawful (putOnLine own octets s) :=
  (h.clock _).relink (List.Sublist.refl _)

theorem sendForward : ReportsLawful (sendForward s) := by
  unfold Machine.sendForward
  split
  · exact h
  · rename_i o rest _
    exact (h.relink (l := { s.link with buffer := rest }) (List.Sublist.refl _)).putOnLine false (forwarded o)

theorem sendOwn : ReportsLawful (sendOwn s) := by
  unfold Machine.sendOwn
  split
  · rename_i f _ _
    exact (h.relink (l := { s.link with own := s.link.restOwn, drop := dropAfter s.link.drop f })
      List.eraseP_sublist).putOnLine true _
  · exact h

/-- What comes over the link, unless the part is held in reset (R168). -/
theorem unlessReset_elapse {f : State → State} (hf : ∀ u, ReportsLawful u → ReportsLawful (f u)) (dt : Nat) :
    ReportsLawful (Machine.unlessReset f (elapse dt s)) := by
  unfold Machine.unlessReset
  split
  · exact h.clock _
  · exact hf _ (h.clock _)

/-! ### Reset and the image (R162 to R168) -/

omit h in
theorem enterReset (ends : Nat) (s : State) : ReportsLawful (enterReset ends s) :=
  Resting.lawful ⟨rfl, still_enterReset ends s, nofun⟩ settingsLawful_atPowerOn

theorem leaveReset (st : Straps) (hr : s.inReset = true) : ReportsLawful (leaveReset st s) := by
  rcases h.resting_or_working with hrest | hwork
  · have hstill : Still (Machine.leaveReset st s) := hrest.still.same rfl rfl le_rfl (fun _ => rfl) rfl rfl rfl rfl rfl rfl
    exact Resting.lawful ⟨by simp [State.apart, Machine.leaveReset], hstill, fun _ => rfl⟩ h.settings
  · have hapart := hwork.apart
    simp [State.apart, hr] at hapart

/-- The image is read: the tile is OUTSIDE, or begins the double sweep within the extent (R5, R50, R166). -/
theorem imageLoads (o : List Byte) (hr : s.inReset = false) : ReportsLawful (imageLoads o s) := by
  unfold Machine.imageLoads
  split
  · exact h
  · rename_i t hread
    rcases h.resting_or_working with hrest | hwork
    · have hstill : Still (loadImage (clockedIn o) (reach t s)) :=
        Still.loadImage (s := reach t s) (hrest.congr (t := reach t s)).still _
      have hset := settingsLawful_loadImage (clockedIn o) (reach t s)
      have hload := loadImage_readEnds (clockedIn o) (reach t s)
      have hmode : (loadImage (clockedIn o) (reach t s)).mode = .start := by
        rw [loadImage_eq]; exact hrest.read (by simp [hread])
      have hreset : (loadImage (clockedIn o) (reach t s)).inReset = false := by rw [loadImage_eq]; exact hr
      generalize loadImage (clockedIn o) (reach t s) = u at hstill hset hload hmode hreset
      unfold compareExtent
      split
      · have hout : Still { u with mode := .outside } := hstill.same rfl rfl le_rfl (fun _ => rfl) rfl rfl rfl rfl rfl rfl
        exact Resting.lawful ⟨by simp [State.apart], hout, fun hre => by simp [hload] at hre⟩ hset
      · rename_i hwithin
        have hbegun : Working (beginSweep u) := by
          refine ⟨?_, hset, Bool.eq_false_iff.2 hwithin, fun r hrun => ?_, ?_, fun c => ?_, fun r hown => ?_⟩
          · simp [State.apart, hload, hmode, hreset]
          · rw [show (beginSweep u).engine.running = none from hstill.running] at hrun; cases hrun
          · rw [show (beginSweep u).seek.pass = none from hstill.pass]; nofun
          · exact hstill.channelOnSurface u.settings c
          · rw [show (beginSweep u).link.own = [] from hstill.own] at hown; exact absurd hown List.not_mem_nil
        exact hbegun.grant.lawful
    · have hapart := hwork.apart
      simp [State.apart, hread] at hapart

/-! ### Every command -/

theorem exec {t : State} (c : Instr) (ht : exec c s = .next t) : ReportsLawful t := by
  cases c <;> cases ht
  case powerOnReset dt => exact enterReset _ _
  case pinReset dt => exact enterReset _ _
  case resetEnd dt st =>
    split
    · rename_i hr
      exact (((h.clock _).clock _).leaveReset st hr)
    · exact h.clock _
  case imageLoaded o =>
    unfold Machine.unlessReset
    split
    · exact h
    · rename_i hr
      exact h.imageLoads o (by simpa using hr)
  case driveEnd foreign =>
    exact h.unlessReset (fun hs => ⟨_, by rw [phaseEnds, hs.running]⟩) fun hw =>
      hw.phaseEnds .drive fun u seq hseq hu => hu.driveOver foreign hseq
  case settleEnd =>
    exact h.unlessReset (fun hs => ⟨_, by rw [phaseEnds, hs.running]⟩) fun hw =>
      hw.phaseEnds .settle fun u seq hseq hu => hu.enterPhase .listen hseq
  case listenEnd periods fall =>
    exact h.unlessReset (fun hs => ⟨_, by rw [phaseEnds, hs.running]⟩) fun hw =>
      hw.phaseEnds .listen fun u seq hseq hu => Working.listenOver (s := sampleFor periods u) hu.congr fall hseq
  case dampEnd foreign fall =>
    exact h.unlessReset (fun hs => ⟨_, by rw [phaseEnds, hs.running]⟩) fun hw =>
      hw.phaseEnds .damp fun u seq hseq hu => Working.endSequence (s := unmask _ foreign u) hu.congr fall hseq
  case fieldRise dt f l fall =>
    exact (h.clock _).unlessReset (fun hs => hs.fieldRises f.val l fall) fun hw => hw.fieldRises f.val l fall
  case fieldFall dt f =>
    exact (h.clock _).unlessReset (fun hs => hs.fieldFalls f.val) fun hw => hw.fieldFalls f.val
  case refreshTimerExpiry =>
    exact h.unlessReset (fun hs => ⟨_, expires_of_stopped hs.timer ..⟩) fun hw => hw.expires fun t _ hu => hu.refreshDue t
  case dormantTimerExpiry =>
    exact h.unlessReset (fun hs => ⟨_, expires_of_stopped hs.dormant ..⟩) fun hw => hw.expires fun t _ hu => hu.goDormant t
  case seekTimerExpiry =>
    exact h.unlessReset (fun hs => ⟨_, expires_of_stopped hs.seekTimer ..⟩) fun hw => hw.expires fun t _ hu => hu.seekDue t
  case backoffTimerExpiry =>
    exact h.unlessReset (fun hs => ⟨_, expires_of_stopped hs.backoff ..⟩) fun hw => hw.expires fun t _ hu => hu.backoffDue t
  case claimTimerExpiry c => exact h.unlessReset (fun hs => ⟨_, by rw [claimDue, (hs.empty c).1]⟩) fun hw => hw.claimDue c
  case deferTimerExpiry c => exact h.unlessReset (fun hs => ⟨_, by rw [deferDue, (hs.empty c).1]⟩) fun hw => hw.deferDue c
  case reportTimerExpiry c => exact h.unlessReset (fun hs => ⟨_, by rw [reportDue, (hs.bare c).2.1]⟩) fun hw => hw.reportDue c
  case barrierTimerExpiry c =>
    exact h.unlessReset (fun hs => ⟨_, by rw [barrierDue, (hs.bare c).current]⟩) fun hw => hw.barrierDue c
  case borderTimerExpiry c =>
    exact h.unlessReset (fun hs => ⟨_, by rw [borderDue, (hs.bare c).current]⟩) fun hw => hw.borderDue c
  case yieldTimerExpiry c => exact h.unlessReset (fun hs => ⟨_, by rw [yieldDue, (hs.empty c).1]⟩) fun hw => hw.yieldDue c
  case ageTimerExpiry c => exact h.unlessReset (fun hs => ⟨_, by rw [ageDue, hs.no_arming c]⟩) fun hw => hw.ageDue c
  case viewTimerExpiry c => exact h.unlessReset (fun hs => ⟨_, by rw [viewDue, (hs.empty c).1]⟩) fun hw => hw.viewDue c
  case linkInDown dt => exact h.unlessReset_elapse (fun _ hu => hu.linkFalls) dt
  case forwardFrameSend dt => exact h.unlessReset_elapse (fun _ hu => hu.sendForward) dt
  case ownFrameSend dt => exact h.unlessReset_elapse (fun _ hu => hu.sendOwn) dt
  all_goals exact h.unlessReset_elapse (fun _ hu => receiveSymbols _ hu) _

end ReportsLawful

/-- Settles O59: at rest nothing is reported (`Resting`); at work every meaning keeps what REPORTs rest on (`Working`). -/
theorem stepsKeepTheReports : Obligations.StepsKeepTheReports := by
  intro s t hs ht
  unfold step at ht
  split at ht
  · cases ht; exact hs
  · rename_i c rest _
    exact ReportsLawful.exec (s := { s with pending := rest }) hs c ht

end Sys2Proof.Machine
end

section
/-! PROOFS. The seek scheduler: the timers that begin a pass, and the results of its two stages (R94, R96 to R101, R103). -/

namespace Sys2Proof.Machine

/-! ### The seek timers (O27) -/

/-- SEEK_TIMER_EXPIRY begins a pass with the timer stopped (R96). -/
theorem exec_seekTimerExpiry {s : State} {t : Nat} (hr : s.inReset = false) (ht : s.seek.timer = some t) :
    exec .seekTimerExpiry s = .next (settleReaction (beginPass
      { s with now := max s.now t, seek := { s.seek with timer := none } })) := by
  simp [exec, execSeekTimerExpiry, unlessReset, hr, expires, ht, seekDue, reach]

/-- BACKOFF_TIMER_EXPIRY begins a pass with the timer stopped (R96, R100). -/
theorem exec_backoffTimerExpiry {s : State} {t : Nat} (hr : s.inReset = false) (ht : s.seek.backoff = some t) :
    exec .backoffTimerExpiry s = .next (settleReaction (beginPass
      { s with now := max s.now t, seek := { s.seek with backoff := none } })) := by
  simp [exec, execBackoffTimerExpiry, unlessReset, hr, expires, ht, backoffDue, reach]

/-- Settles O27: either timer leaves `beginPass`, with a channel that seeks and without. -/
theorem seekTimersBeginAPass : Obligations.SeekTimersBeginAPass := by
  intro s t0 hr hpass begun
  have hbegins : ∀ seek : Seek, seek.pass = none → seek.turn = s.seek.turn →
      begun seek (.next (settleReaction (beginPass { s with now := max s.now t0, seek := seek }))) := by
    intro seek hnone hsame
    refine ⟨fun c hc hturn => ?_, fun hseeks => ?_⟩
    · rw [← hsame] at hturn
      rw [beginPass_of_seeks (s := { s with now := max s.now t0, seek := seek }) hnone hc hturn]; rfl
    · rw [beginPass_of_none (s := { s with now := max s.now t0, seek := seek }) (.inr hseeks)]; rfl
  refine ⟨fun ht => ?_, fun hb => ?_⟩
  · rw [exec_seekTimerExpiry hr ht]; exact hbegins _ hpass rfl
  · rw [exec_backoffTimerExpiry hr hb]; exact hbegins _ hpass rfl

/-! ### What a stage of a pass leaves (R97 to R99) -/

/-- A pass goes to the next X group before the sixth (R97). -/
theorem nextGroup_of_more {pos : Nat} (h : pos < 5) (c : Chan) (s : State) : nextGroup c pos s =
    ({ s with seek := { s.seek with pass := some { ch := c, stage := .x (pos + 1) } } },
      some { ch := c, ask := .seekX (xGroup (pos + 1)) }) :=
  if_pos (Nat.succ_lt_succ h)

/-- A pass is complete after its sixth X group, and the seek interval starts (R97, R99). -/
theorem nextGroup_of_last (c : Chan) (s : State) : nextGroup c 5 s = (endPass s, none) := rfl

/-- A channel in SEEK whose pass is over moves on with its state alone (R95). -/
theorem moveTo_of_seek_without_pass {c : Chan} {s : State} (hst : (s.chan c).state = .seek) (hpass : s.seek.pass = none)
    (st : ChanState) : moveTo c st s = s.entered c st := by
  have hnone : ¬ s.seek.pass.any (fun p => p.ch == c) = true := by simp [hpass]
  rw [moveTo_eq_moved c st s (by rw [hst]; exact ⟨nofun, nofun, nofun⟩), State.moved, if_pos hst, State.unsought, if_neg hnone]

/-- A find's pass is over, its SIGHTING queued and the tile awake (R94, R99, R103). -/
def State.found (c : Chan) (strength x y : Nat) (s : State) : State :=
  { s with
    mode := if s.mode = Mode.dormant then .active else s.mode
    seek := { s.seek with pass := none, timer := some (s.now + msec 4) }
    link := s.link.push (.sighting c strength x y) }

/-- Waking, the end of the pass and the SIGHTING, as one update: the seek interval is that of a tile awake (R94, R99, R103). -/
theorem queueFrame_endPass_wake (c : Chan) (strength x y : Nat) (s : State) :
    queueFrame (.sighting c strength x y) (endPass (wake s)) = s.found c strength x y := by
  unfold wake State.found
  by_cases hm : s.mode = Mode.dormant
  · rw [if_pos hm, if_pos hm]; rfl
  · rw [if_neg hm, if_neg hm]
    simp only [queueFrame, endPass, seekInterval, if_neg hm]

/-- A find brings its channel from SEEK to CLAIM (R103). -/
theorem find_of_seek {c : Chan} {s : State} (hst : (s.chan c).state = .seek) (strength x y : Nat) :
    find c strength x y s = (s.found c strength x y).entered c
      (.claim { strength := strength, coarseX := x, coarseY := y, best := none, timer := s.now + usec 600 }) := by
  have hst' : ((s.found c strength x y).chan c).state = .seek := by cases c <;> exact hst
  unfold find
  simp only [queueFrame_endPass_wake]
  exact moveTo_of_seek_without_pass hst' rfl _

/-- An X peak at or above the find threshold opens the Y stage (R97). -/
theorem seekXResult_of_found {c : Chan} {w : Nat} {s : State}
    (h : s.settings.findThreshold ≤ (peakEntry (filledRun s .X (coilFreq c .tip) w)).amp) (pos : Nat) :
    let p := peakEntry (filledRun s .X (coilFreq c .tip) w)
    seekXResult c w pos s =
      ({ s with seek := { s.seek with pass := some { ch := c, stage := .y pos (xGroup pos) p.loop p.amp 0 } } },
        some { ch := c, ask := .seekY p.loop (xGroup pos) (yGroup 0) }) :=
  if_pos h

/-- An X peak below the find threshold ends its group (R97). -/
theorem seekXResult_of_below {c : Chan} {w : Nat} {s : State}
    (h : (peakEntry (filledRun s .X (coilFreq c .tip) w)).amp < s.settings.findThreshold) (pos : Nat) :
    seekXResult c w pos s = nextGroup c pos s :=
  if_neg (Nat.not_le.2 h)

/-- A Y peak at or above the find threshold is a find (R98). -/
theorem seekYResult_of_found {c : Chan} {w : Nat} {s : State}
    (h : s.settings.findThreshold ≤ (peakEntry (filledRun s .Y (coilFreq c .tip) w)).amp) (pos g loop st k : Nat) :
    seekYResult c w pos g loop st k s =
      (find c st loop (peakEntry (filledRun s .Y (coilFreq c .tip) w)).loop s, none) :=
  if_pos h

/-- A Y peak below the find threshold asks for the next Y group, up to the fourth (R98). -/
theorem seekYResult_of_more {c : Chan} {w k : Nat} {s : State}
    (h : (peakEntry (filledRun s .Y (coilFreq c .tip) w)).amp < s.settings.findThreshold) (hk : k < 3) (pos g loop st : Nat) :
    seekYResult c w pos g loop st k s =
      ({ s with seek := { s.seek with pass := some { ch := c, stage := .y pos g loop st (k + 1) } } },
        some { ch := c, ask := .seekY loop g (yGroup (k + 1)) }) :=
  (if_neg (Nat.not_le.2 h)).trans (if_pos (Nat.succ_lt_succ hk))

/-- A fourth Y peak below the find threshold ends the X group (R98). -/
theorem seekYResult_of_last {c : Chan} {w : Nat} {s : State}
    (h : (peakEntry (filledRun s .Y (coilFreq c .tip) w)).amp < s.settings.findThreshold) (pos g loop st : Nat) :
    seekYResult c w pos g loop st 3 s = nextGroup c pos s :=
  if_neg (Nat.not_le.2 h)

/-! ### The results of seek sequences (O20, O21) -/

/-- DAMP_END delivers a seek sequence that is not abandoned to its channel's pass (R26). -/
theorem exec_dampEnd_of_seek {s : State} {r : Running} {c : Chan} (foreign : Bool) (fall : Option Freq)
    (hr : s.inReset = false) (hrun : s.engine.running = some r) (hp : r.phase = .damp)
    (hjob : r.seq.job = .seekX c ∨ r.seq.job = .seekY c) (hkept : r.seq.abandoned = false) :
    exec (.dampEnd foreign fall) s = .next (settleEnd fall (seekResult c r.seq (s.dampedOut r foreign))) := by
  rw [exec_dampEnd_settles foreign fall hr hrun hp, conclude_of_kept hkept]
  rcases hjob with hjob | hjob <;> simp only [deliver, hjob]

/-- A disturbed result of either stage backs off (R100). -/
theorem seekResult_of_disturbed {c : Chan} {seq : Sequence} {s : State} {stage : Stage} (hd : seq.disturbed = true)
    (hpass : s.seek.pass = some { ch := c, stage := stage }) : seekResult c seq s = (backOff s, none) := by
  simp [seekResult, hpass, hd]

theorem seekResult_of_x {c : Chan} {seq : Sequence} {s : State} {pos : Nat} (hd : seq.disturbed = false)
    (hpass : s.seek.pass = some { ch := c, stage := .x pos }) : seekResult c seq s = seekXResult c seq.windowX pos s := by
  simp [seekResult, hpass, hd]

theorem seekResult_of_y {c : Chan} {seq : Sequence} {s : State} {pos g loop st k : Nat} (hd : seq.disturbed = false)
    (hpass : s.seek.pass = some { ch := c, stage := .y pos g loop st k }) :
    seekResult c seq s = seekYResult c seq.windowY pos g loop st k s := by
  simp [seekResult, hpass, hd]

/-- The feedback is the parity of the four weights, which are the bits 15, 13, 12 and 10 (R101). -/
theorem lfsrFeedback_eq (v : Nat) : lfsrFeedback v = ([15, 13, 12, 10].filter fun k => v.testBit k).length % 2 := by
  have hbit : ∀ k, v.testBit k = decide (v / 2 ^ k % 2 = 1) := fun k => Nat.testBit_eq_decide_div_mod_eq
  simp only [lfsrFeedback, List.filter_cons, List.filter_nil, hbit, decide_eq_true_eq]
  split <;> split <;> split <;> split <;> simp only [List.length_cons, List.length_nil] <;> omega

/-- Settles O20: `seekXResult` on each side of the threshold, and `backOff` with the parity of `lfsrFeedback_eq`. -/
theorem seekXStageDecides : Obligations.SeekXStageDecides := by
  intro foreign fall s r c stage hr hrun hp hjob hkept hpass b peak x after lfsr
  rw [exec_dampEnd_of_seek foreign fall hr hrun hp hjob hkept]
  have hpass' : b.seek.pass = some { ch := c, stage := stage } := hpass
  refine ⟨fun hd => ?disturbed, fun pos hd hstage hfound => ?found, fun pos hd hstage hbelow hpos => ?next,
    fun hd hstage hbelow => ?complete⟩
  case disturbed =>
    have hlfsr : lfsrStep s.seek.lfsr = lfsr := by rw [lfsrStep, lfsrFeedback_eq]
    have hback : backOff b =
        { b with seek := { s.seek with
            pass := none, lfsr := lfsr, backoff := some (b.now + usec ((1 + lfsr % 8) * 40)) } } := by
      rw [← hlfsr]; rfl
    rw [seekResult_of_disturbed hd hpass', hback]; rfl
  case found =>
    subst hstage
    rw [seekResult_of_x hd hpass', seekXResult_of_found (s := b) hfound]; rfl
  case next =>
    subst hstage
    rw [seekResult_of_x hd hpass', seekXResult_of_below (s := b) hbelow, nextGroup_of_more hpos]; rfl
  case complete =>
    subst hstage
    rw [seekResult_of_x hd hpass', seekXResult_of_below (s := b) hbelow, nextGroup_of_last]; rfl

/-- Settles O21: `seekYResult` on each side of the threshold, with `find_of_seek` at or above it. -/
theorem seekYStageDecides : Obligations.SeekYStageDecides := by
  intro foreign fall s r c pos g loop st k hr hrun hp hjob hkept hd hst hpass b peak
  have hpass' : b.seek.pass = some { ch := c, stage := .y pos g loop st k } := hpass
  have hst' : (b.chan c).state = .seek := by cases c <;> exact hst
  rw [exec_dampEnd_of_seek foreign fall hr hrun hp hjob hkept, seekResult_of_y hd hpass']
  refine ⟨fun hfound => ?found, fun hbelow hk => ?nextY, fun hbelow hk hpos => ?nextX, fun hbelow hk hpos => ?complete⟩
  case found =>
    rw [seekYResult_of_found (s := b) hfound, find_of_seek hst']; rfl
  case nextY =>
    rw [seekYResult_of_more (s := b) hbelow hk]; rfl
  case nextX =>
    subst hk
    rw [seekYResult_of_last (s := b) hbelow, nextGroup_of_more hpos]; rfl
  case complete =>
    subst hk hpos
    rw [seekYResult_of_last (s := b) hbelow, nextGroup_of_last]; rfl

end Sys2Proof.Machine
end

section
/-! PROOFS. Channels that wait, and what they hear of other tiles: timers, LOST, SIGHTING, REPORT and TAKE (R93 to R96, R102 to R108, R126 to R138). -/

namespace Sys2Proof.Machine

/-! ### A waiting channel enters SEEK (R93, R96, R108, R135) -/

/-- The channel waits in DEFER or in STANDBY: its state has no more than a timer or a view (R95). -/
def ChanState.waits (st : ChanState) : Prop := (∃ t, st = .defer t) ∨ ∃ h t, st = .standby h t

/-- The channel is in SEEK and the dormant timer set afresh (R93). -/
def State.sought (c : Chan) (s : State) : State := (s.setChan c { s.chan c with state := .seek }).timed

/-- A waiting channel takes nothing along when it leaves its state (R95). -/
theorem leaveState_of_waits {c : Chan} {s : State} (h : (s.chan c).state.waits) : leaveState c s = s := by
  unfold leaveState
  rcases h with ⟨t, hst⟩ | ⟨holder, t, hst⟩ <;> rw [hst]

/-- What a waiting channel leaves as it enters SEEK, a pass apart (R93, R108, R135). -/
theorem sought_of_waits {c : Chan} {s : State} (h : (s.chan c).state.waits) :
    timeDormant (setState c .seek (leaveState c s)) = s.sought c := by
  rw [leaveState_of_waits h]; rfl

theorem sought_seek (c : Chan) (s : State) : (s.sought c).seek = s.seek := by cases c <;> rfl

/-- A waiting channel enters SEEK and no pass begins: a seek timer runs, or a pass is in progress (R96). -/
theorem enterSeek_of_waits_without_pass {c : Chan} {s : State} (h : (s.chan c).state.waits)
    (hbusy : s.seek.timer ≠ none ∨ s.seek.backoff ≠ none ∨ s.seek.pass ≠ none) : enterSeek c s = (s.sought c, none) := by
  unfold enterSeek
  simp only [sought_of_waits h, sought_seek]
  split
  · rename_i ht hb
    refine beginPass_of_none (.inl ?_)
    rw [sought_seek]
    exact (hbusy.resolve_left (not_not.2 ht)).resolve_left (not_not.2 hb)
  · rfl

/-- A waiting channel enters SEEK and a pass begins at once (R96). -/
theorem enterSeek_of_waits_with_pass {c d : Chan} {s : State} (h : (s.chan c).state.waits) (ht : s.seek.timer = none)
    (hb : s.seek.backoff = none) (hpass : s.seek.pass = none) (hd : (s.sought c).seeks d = true)
    (hturn : d = s.seek.turn ∨ (s.sought c).seeks s.seek.turn = false) :
    enterSeek c s =
      ({ s.sought c with seek := { s.seek with pass := some { ch := d, stage := .x 0 }, turn := otherChan d } },
        some { ch := d, ask := .seekX 0 }) := by
  have hseek := sought_seek c s
  have hbegins : enterSeek c s = beginPass (s.sought c) := by
    unfold enterSeek
    simp only [sought_of_waits h, hseek, ht, hb]
  rw [hbegins, beginPass_of_seeks (s := s.sought c) (by rw [hseek, hpass]) hd (by rw [hseek]; exact hturn), hseek]

/-- Whatever it waits for, a waiting channel enters SEEK alike. -/
theorem enterSeek_setChan_of_waits {c : Chan} {s : State} {st : ChanState} (h : (s.chan c).state.waits) (hst : st.waits) :
    enterSeek c (s.setChan c { s.chan c with state := st }) = enterSeek c s := by
  have hset : setState c .seek (s.setChan c { s.chan c with state := st }) = setState c .seek s := by cases c <;> rfl
  unfold enterSeek
  rw [leaveState_of_waits h, leaveState_of_waits (by rw [setChan_chan_same]; exact hst), hset]

/-- A pass that begins leaves the dormant timer and what it is set by alone. -/
theorem timeDormant_beginPass (s : State) : timeDormant (beginPass s).1 = (beginPass (timeDormant s)).1 := by
  have hchosen : passChannel (timeDormant s) = passChannel s := rfl
  unfold beginPass
  rw [hchosen, timeDormant_seek]
  cases s.seek.pass <;> cases passChannel s <;> rfl

/-- The dormant timer is set afresh already when a channel has entered SEEK (R93). -/
theorem timeDormant_enterSeek (c : Chan) (s : State) : timeDormant (enterSeek c s).1 = (enterSeek c s).1 := by
  have hagain : ∀ u : State, timeDormant (timeDormant u) = timeDormant u := fun _ => rfl
  unfold enterSeek
  simp only
  split
  · rw [timeDormant_beginPass, hagain]
  · exact hagain _

/-! ### Timers of a waiting channel, and LOST (O31) -/

/-- YIELD_TIMER_EXPIRY returns the channel to HOLD with the spacing count at 8 (R126, R129). -/
theorem exec_yieldTimerExpiry {s : State} {c : Chan} {t : Nat} {cs : CycleState} (hr : s.inReset = false)
    (hst : (s.chan c).state = .yield t) (hcs : (s.chan c).cycles = some cs) :
    exec (.yieldTimerExpiry c) s = .next
      ((reach t s).setChan c { s.chan c with state := .hold, cycles := some { cs with spacing := 8 } }) := by
  have hexec : exec (.yieldTimerExpiry c) s = .next (setSpacing c 8 (setState c .hold (reach t s))) := by
    simp [exec, execYieldTimerExpiry, unlessReset, hr, yieldDue, hst]
  have hcs' : ((setState c .hold (reach t s)).chan c).cycles = some cs := by rw [setState_chan_same, reach_chan]; exact hcs
  rw [hexec, setSpacing, modChan_eq]
  simp only [hcs']
  cases c <;> rfl

/-- DEFER_TIMER_EXPIRY brings its channel to SEEK (R108). -/
theorem exec_deferTimerExpiry {s : State} {c : Chan} {t : Nat} (hr : s.inReset = false) (hst : (s.chan c).state = .defer t) :
    exec (.deferTimerExpiry c) s = .next (settleReaction (enterSeek c (reach t s))) := by
  simp [exec, execDeferTimerExpiry, unlessReset, hr, deferDue, hst]

/-- VIEW_TIMER_EXPIRY brings its channel to SEEK (R135). -/
theorem exec_viewTimerExpiry {s : State} {c : Chan} {holder t : Nat} (hr : s.inReset = false)
    (hst : (s.chan c).state = .standby holder t) :
    exec (.viewTimerExpiry c) s = .next (settleReaction (enterSeek c (reach t s))) := by
  simp [exec, execViewTimerExpiry, unlessReset, hr, viewDue, hst]

/-- LOST sends to SEEK a channel that defers, or that stands by for the tile that sent it (R108, R138). -/
theorem onLost_of_waits {c : Chan} {origin t : Nat} {s : State}
    (h : (s.chan c).state = .defer t ∨ (s.chan c).state = .standby origin t) : onLost c origin s = enterSeek c s := by
  rcases h with hst | hst <;> simp [onLost, hst]

/-- LOST leaves any other channel alone (R138). -/
theorem onLost_of_other {c : Chan} {origin : Nat} {s : State} (hdefer : ∀ t, (s.chan c).state ≠ .defer t)
    (hview : ∀ t, (s.chan c).state ≠ .standby origin t) : onLost c origin s = (s, none) := by
  unfold onLost
  cases hst : (s.chan c).state with
  | defer t => exact absurd hst (hdefer t)
  | standby holder t => exact if_neg fun h => hview t (by rw [hst, h])
  | _ => rfl

/-- Settles O31: `enterSeek` with and without a pass at the two timers, and the same `enterSeek` at a LOST. -/
theorem waitingChannelsMoveOn : Obligations.WaitingChannelsMoveOn := by
  intro s c t0 hr
  refine ⟨fun hst cs hcs => exec_yieldTimerExpiry hr hst hcs, fun i hi => ?timers, fun dt o n harr => ?lost⟩
  case timers =>
    intro b
    have hwaits : ((reach t0 s).chan c).state.waits := by
      rw [reach_chan]
      rcases hi with ⟨hst, -⟩ | ⟨⟨holder, hst⟩, -⟩
      · exact .inl ⟨t0, hst⟩
      · exact .inr ⟨holder, t0, hst⟩
    have hexec : exec i s = .next (settleReaction (enterSeek c (reach t0 s))) := by
      rcases hi with ⟨hst, rfl⟩ | ⟨⟨holder, hst⟩, rfl⟩
      · exact exec_deferTimerExpiry hr hst
      · exact exec_viewTimerExpiry hr hst
    have hb : (reach t0 s).sought c = b := by unfold State.sought; rw [reach_chan]; rfl
    rw [hexec, ← hb]
    refine ⟨fun hbusy => ?_, fun ht hback hpass d hd hturn => ?_⟩
    · rw [enterSeek_of_waits_without_pass hwaits hbusy]; rfl
    · rw [enterSeek_of_waits_with_pass hwaits ht hback hpass hd hturn]; rfl
  case lost =>
    intro b
    have hexec : exec (.lost dt (o.drop 1)) s =
        .next (settleReaction (timeDormant (onLost c (originOf o) b).1, (onLost c (originOf o) b).2)) :=
      exec_command_of_pen dt harr c rfl nofun
    obtain ⟨hchan, -⟩ := woken_chan c (s.copied dt o)
    have hchan' : b.chan c = s.chan c := hchan
    refine ⟨fun hst => ?_, fun hdefer hview => ?_⟩
    · rw [← hchan'] at hst
      have hwaits : (b.chan c).state.waits := hst.imp (fun h => ⟨t0, h⟩) fun h => ⟨originOf o, t0, h⟩
      refine ⟨settleReaction (enterSeek c b), ?_, ?_⟩
      · rw [hexec, onLost_of_waits hst, timeDormant_enterSeek]
      · have hb : (b.setChan c { s.chan c with state := .defer b.now }).inReset = false := by
          rw [setChan_inReset]; exact (wake_inReset (s.copied dt o)).trans hr
        have hmoment : reach b.now (b.setChan c { s.chan c with state := .defer b.now }) =
            b.setChan c { b.chan c with state := .defer b.now } := by
          rw [← hchan']; cases c <;> simp [reach, State.setChan]
        rw [exec_deferTimerExpiry hb (by rw [setChan_chan_same]), hmoment,
          enterSeek_setChan_of_waits hwaits (.inl ⟨b.now, rfl⟩)]
    · rw [hexec, onLost_of_other (by rwa [hchan']) (by rwa [hchan'])]; rfl

/-! ### SIGHTING (O36) -/

/-- One sighting outranks another by its strength, and among equals by the lower origin (R104). -/
theorem stronger_iff (a b : Nat × Nat) : stronger a b = true ↔ b.1 < a.1 ∨ (b.1 = a.1 ∧ a.2 < b.2) := by
  simp [stronger, @eq_comm _ a.1 b.1]

/-- A claim hears another sighting: it remembers the stronger, of equal ones the one of the lower origin (R104). -/
theorem hear_of_better {cl : Claim} {st origin : Nat}
    (h : ∀ v, cl.best = some v → v.1 < st ∨ (v.1 = st ∧ origin < v.2)) :
    cl.hear (st, origin) = { cl with best := some (st, origin) } := by
  unfold Claim.hear
  split
  · rfl
  · rename_i v hv
    exact if_pos ((stronger_iff _ v).2 (h v hv))

theorem hear_of_not_better {cl : Claim} {st origin : Nat}
    (h : ¬ ∀ v, cl.best = some v → v.1 < st ∨ (v.1 = st ∧ origin < v.2)) : cl.hear (st, origin) = cl := by
  unfold Claim.hear
  split
  · rename_i hnone
    exact absurd (fun v hv => by rw [hnone] at hv; cases hv) h
  · rename_i v hv
    refine if_neg fun hs => h fun u hu => ?_
    cases hv.symm.trans hu
    exact (stronger_iff _ v).1 hs

/-- A claim that has changed its record stops the dormant timer (R93). -/
theorem timeDormant_setState {c : Chan} {s : State} {st : ChanState} (he : s.enabled c = true) (hst : st ≠ .seek) :
    timeDormant (setState c st s) = s.entered c st := by
  rw [timeDormant_of_not_seek c _ (by cases c <;> exact he) (by rw [setState_chan_same]; exact hst)]
  rfl

/-- Settles O36: the three branches of `onSighting`, and then the dormant timer. -/
theorem sightingIsCompared : Obligations.SightingIsCompared := by
  intro dt o c st x y s harr b
  have hexec : exec (.sighting dt (o.drop 1)) s = .next (timeDormant (onSighting c (originOf o) st b)) :=
    exec_command_of_pen dt harr c rfl nofun
  obtain ⟨hchan, henabled, -⟩ := woken_chan c (s.copied dt o)
  have hchan' : b.chan c = s.chan c := hchan
  have hen : b.enabled c = true := by
    obtain ⟨-, -, -, -, -, -, -, -, -, hen⟩ := harr
    exact henabled.trans (hen c rfl)
  rw [hexec, ← hchan']
  refine ⟨fun hst => ?seeks, fun cl hst => ?claims, fun hseek hclaim => ?other⟩
  case seeks =>
    have hdefers : onSighting c (originOf o) st b = b.moved c (.defer (b.now + msec 5)) := by
      simp only [onSighting, hst]
      exact moveTo_eq_moved c _ b (by rw [hst]; exact ⟨nofun, nofun, nofun⟩)
    rw [hdefers, timeDormant_moved c (.defer _) b hen nofun]
  case claims =>
    intro better
    have hhears : onSighting c (originOf o) st b = setState c (.claim (cl.hear (st, originOf o))) b := by
      simp only [onSighting, hst]
    rw [hhears, timeDormant_setState (st := .claim _) hen nofun]
    exact ⟨fun h => by rw [hear_of_better h], fun h => by rw [hear_of_not_better h]⟩
  case other =>
    have hleft : onSighting c (originOf o) st b = b := by
      unfold onSighting
      cases hst : (b.chan c).state with
      | seek => exact absurd hst hseek
      | claim cl => exact absurd hst (hclaim cl)
      | _ => rfl
    rw [hleft]; rfl

/-! ### REPORT and TAKE (O37) -/

/-- A channel that holds no pen stands by, its view set or refreshed (R102, R106, R108, R134). -/
theorem holderHeard_of_unheld {c : Chan} {s : State} (h : (s.chan c).state.unheld) (origin : Nat) :
    holderHeard c origin s = s.moved c (.standby origin (s.now + msec 50)) := by
  have hstands : holderHeard c origin s = standBy c origin s := by
    obtain ⟨habsent, hhold, hyield⟩ := h
    unfold holderHeard
    cases hst : (s.chan c).state with
    | absent => exact absurd hst habsent
    | hold => exact absurd hst hhold
    | yield t => exact absurd hst (hyield t)
    | _ => rfl
  exact hstands.trans (moveTo_eq_moved c _ s h)

/-- A held channel meets another holder (R136). -/
theorem holderHeard_of_holding {c : Chan} {s : State} (h : s.holding c = true) (origin : Nat) :
    holderHeard c origin s =
      if ownIndex s.straps < origin then s else s.released c (.standby origin (s.now + msec 50)) := by
  have hduel : holderHeard c origin s = duel c origin s := by
    unfold State.holding at h
    unfold holderHeard
    cases hst : (s.chan c).state <;> simp_all
  rw [hduel, duel, standBy, moveTo_eq_released c _ s h]

/-- A channel that holds no pen is neither in HOLD nor in YIELD (R95). -/
theorem holding_of_unheld {c : Chan} {s : State} (h : (s.chan c).state.unheld) : s.holding c = false := by
  obtain ⟨-, hhold, hyield⟩ := h
  unfold State.holding
  cases hst : (s.chan c).state with
  | hold => exact absurd hst hhold
  | yield t => exact absurd hst (hyield t)
  | _ => rfl

/-- A TAKE is heard like any frame of another holder, unless it names this tile and the channel is held (R128, R132). -/
theorem onTake_of_heard {c : Chan} {s : State} {releaser : Nat} (h : releaser ≠ ownIndex s.straps ∨ s.holding c = false)
    (origin : Nat) : onTake c origin releaser s = holderHeard c origin s :=
  if_neg (by rintro ⟨hown, hheld⟩; rcases h with h | h <;> simp_all)

/-- A TAKE that names this tile ends its hold (R132). -/
theorem onTake_of_released {c : Chan} {s : State} {releaser : Nat} (hown : releaser = ownIndex s.straps)
    (h : s.holding c = true) (origin : Nat) :
    onTake c origin releaser s = s.released c (.standby origin (s.now + msec 50)) :=
  (if_pos ⟨hown, h⟩).trans (moveTo_eq_released c _ s h)

/-- Settles O37: `holderHeard` for a channel held and not held, `onTake` for a TAKE that names this tile. -/
theorem holderIsHeard : Obligations.HolderIsHeard := by
  intro dt k o f c s harr own b view heard
  obtain ⟨hchan, henabled, hholding, hstraps, -⟩ := woken_chan c (s.copied dt o)
  have hchan' : b.chan c = s.chan c := hchan
  have hholding' : b.holding c = s.holding c := hholding
  have hown : ownIndex b.straps = own := congrArg ownIndex hstraps
  have hen : f.channel = some c → b.enabled c = true := fun hf => by
    obtain ⟨-, -, -, -, -, -, -, -, -, hen⟩ := harr
    exact henabled.trans (hen c hf)
  have hreleased : b.enabled c = true → timeDormant (b.released c view) = b.released c view := fun h =>
    timeDormant_released c view b h nofun
  have hmoved : b.enabled c = true → timeDormant (b.moved c view) = b.moved c view := fun h =>
    timeDormant_moved c view b h nofun
  have htake : ∀ releaser n, f = .take c releaser n →
      exec (k.command dt (o.drop 1)) s = .next (timeDormant (onTake c (originOf o) releaser b)) := fun releaser n hf => by
    subst hf
    exact exec_command_of_pen dt harr c rfl nofun
  have hheard : heard → f.channel = some c ∧
      exec (k.command dt (o.drop 1)) s = .next (timeDormant (holderHeard c (originOf o) b)) := by
    rintro (⟨r, rfl, rfl⟩ | ⟨releaser, n, hf, hne⟩)
    · exact ⟨rfl, exec_command_of_pen dt harr r.ch rfl nofun⟩
    · refine ⟨by rw [hf]; rfl, ?_⟩
      rw [htake releaser n hf, onTake_of_heard (.inl (by rw [hown]; exact hne))]
  refine ⟨fun h hunheld => ?standsBy, fun h hheld => ?duels, fun n hf hheld => ?released, fun n hf hunheld => ?named⟩
  case standsBy =>
    obtain ⟨hf, hexec⟩ := hheard h
    rw [hexec, holderHeard_of_unheld (by rw [hchan']; exact hunheld), hmoved (hen hf)]
  case duels =>
    obtain ⟨hf, hexec⟩ := hheard h
    rw [hexec, holderHeard_of_holding (by rw [hholding']; exact hheld), hown]
    split
    · rfl
    · rw [hreleased (hen hf)]
  case released =>
    rw [htake own n hf, onTake_of_released hown.symm (by rw [hholding']; exact hheld), hreleased (hen (by rw [hf]; rfl))]
  case named =>
    have hunheld' : (b.chan c).state.unheld := by rw [hchan']; exact hunheld
    rw [htake own n hf, onTake_of_heard (.inr (holding_of_unheld hunheld')), holderHeard_of_unheld hunheld',
      hmoved (hen (by rw [hf]; rfl))]

end Sys2Proof.Machine
end

section
/-! PROOFS. The tracking cycle between its start and its end: report timer, barrier, border wait, and the end of an arming record's age (R111 to R118, R121, R124, R144). -/

namespace Sys2Proof.Machine

/-! ### The border wait begins (O17) -/

/-- The cycle record a collar sequence leaves: its collar profiles formed unless it was disturbed (R66, R116). -/
def collarRecord (s : State) (c : Chan) (seq : Sequence) (rec : CycleRecord) : CycleRecord :=
  if seq.disturbed then rec else formCollar s c seq.windowX seq.windowY rec

/-- A collar result leaves the wants alone (R66). -/
theorem collarRecord_wants (s : State) (c : Chan) (seq : Sequence) (rec : CycleRecord) :
    (collarRecord s c seq rec).wantX = rec.wantX ∧ (collarRecord s c seq rec).wantY = rec.wantY := by
  unfold collarRecord
  split <;> exact ⟨rfl, rfl⟩

/-- BORDER WAIT has begun with 296 µs (R116, R118). -/
def State.awaiting (c : Chan) (cs : CycleState) (cy : Cycle) (rec : CycleRecord) (s : State) : State :=
  s.setChan c
    { s.chan c with
      record := some rec
      cycles := some { cs with current := some { cy with phase := .borderWait, border := some (s.now + usec 296) } } }

/-- BORDER WAIT begins, and ends at once when every expected frame is in (R117, R118). -/
theorem beginBorderWait_eq {c : Chan} {s : State} {cs : CycleState} {cy : Cycle} {rec : CycleRecord}
    (hcs : (s.chan c).cycles = some cs) (hcy : cs.current = some cy) (hrec : (s.chan c).record = some rec) :
    beginBorderWait c s =
      if allExpected rec cy then endBorderWait c (s.awaiting c cs cy rec) else (s.awaiting c cs cy rec, none) := by
  have hwaiting : modCycle c (fun cy => { cy with phase := .borderWait, border := some (s.now + usec 296) }) s =
      s.awaiting c cs cy rec := by
    rw [modCycle_eq _ hcs hcy, State.awaiting, ← hrec]
  have hrecord : ((s.awaiting c cs cy rec).chan c).record = some rec := by rw [State.awaiting, setChan_chan_same]
  have hcur : ((s.awaiting c cs cy rec).chan c).current =
      some { cy with phase := .borderWait, border := some (s.now + usec 296) } := by
    rw [State.awaiting, setChan_chan_same]; rfl
  unfold beginBorderWait
  simp only [hwaiting, hrecord, hcur]
  rfl

/-- A collar result begins the border wait with the record it leaves (R116). -/
theorem collarResult_eq {c : Chan} {s : State} {cs : CycleState} {cy : Cycle} {rec : CycleRecord} (seq : Sequence)
    (hcs : (s.chan c).cycles = some cs) (hcy : cs.current = some cy) (hphase : cy.phase = .collar)
    (hrec : (s.chan c).record = some rec) :
    collarResult c seq s =
      if allExpected (collarRecord s c seq rec) cy then endBorderWait c (s.awaiting c cs cy (collarRecord s c seq rec))
      else (s.awaiting c cs cy (collarRecord s c seq rec), none) := by
  have hcur : (s.chan c).current = some cy := by simp [Channel.current, hcs, hcy]
  unfold collarResult
  simp only [hcur, hphase, ne_eq, not_true_eq_false, if_false]
  split
  · rename_i hd
    rw [collarRecord, if_pos hd]
    exact beginBorderWait_eq hcs hcy hrec
  · rename_i hd
    have hformed : modRecord c (formCollar s c seq.windowX seq.windowY) s =
        s.setChan c { s.chan c with record := some (collarRecord s c seq rec) } := by
      rw [modRecord, modChan_eq, hrec, collarRecord, if_neg hd]; rfl
    have hsame : (s.setChan c { s.chan c with record := some (collarRecord s c seq rec) }).awaiting c cs cy
        (collarRecord s c seq rec) = s.awaiting c cs cy (collarRecord s c seq rec) := by
      unfold State.awaiting
      rw [setChan_setChan, setChan_chan_same, setChan_now]
    rw [hformed, ← hsame]
    exact beginBorderWait_eq (by rw [setChan_chan_same]; exact hcs) hcy (by rw [setChan_chan_same])

/-- Settles O17: the collar result (`collarResult_eq`) delivered as the engine enters IDLE (`exec_dampEnd_settles`). -/
theorem collarResultOpensTheBorderWait : Obligations.CollarResultOpensTheBorderWait := by
  intro foreign fall s r c cs cy rec hr hrun hp hjob hkept hcs hcy hphase hrec b waiting awaited
  have hchan : b.chan c = s.chan c := by cases c <;> rfl
  have hwaiting : b.awaiting c cs cy (collarRecord b c r.seq rec) = waiting := by
    unfold State.awaiting; rw [hchan]; rfl
  have hexpected : allExpected (collarRecord b c r.seq rec) cy = true ↔ ¬ awaited := by
    obtain ⟨hX, hY⟩ := collarRecord_wants b c r.seq rec
    rw [allExpected_iff, hX, hY]
    simp only [awaited, not_or, not_and, Bool.not_eq_false, Option.isSome_iff_ne_none, ← or_iff_not_imp_left]
  have hresult : conclude r.seq b =
      if allExpected (collarRecord b c r.seq rec) cy then endBorderWait c waiting else (waiting, none) := by
    rw [conclude_of_kept hkept, deliver, hjob, ← hwaiting]
    exact collarResult_eq r.seq (by rw [hchan, hcs]) hcy hphase (by rw [hchan, hrec])
  rw [exec_dampEnd_settles foreign fall hr hrun hp, hresult]
  refine ⟨fun hawaited => ?_, fun hnone => ?_⟩
  · rw [if_neg fun h => hexpected.1 h hawaited]; rfl
  · rw [if_pos (hexpected.2 hnone)]; rfl

/-! ### The report timer (O29) -/

/-- REPORT_TIMER_EXPIRY out of reset (R111). -/
theorem exec_reportTimerExpiry (c : Chan) {s : State} (hr : s.inReset = false) :
    exec (.reportTimerExpiry c) s = .next (reportDue c s) := by
  simp [exec, execReportTimerExpiry, unlessReset, hr]

/-- The report timer has gone on with one interval (R111). -/
def State.reportTimed (c : Chan) (cs : CycleState) (s : State) : State :=
  (reach cs.timer s).setChan c
    { s.chan c with cycles := some { cs with timer := cs.timer + reportInterval s.settings } }

/-- In HOLD the report timer counts an overrun while a cycle is in progress, and starts the next cycle otherwise; out of HOLD it only goes on (R111). -/
theorem reportDue_eq {c : Chan} {s : State} {cs : CycleState} (hcs : (s.chan c).cycles = some cs) :
    reportDue c s =
      if (s.chan c).state = .hold then
        if cs.current ≠ none ∨ (s.chan c).abandoned ≠ none then
          (s.reportTimed c cs).setChan c
            { s.chan c with
              cycles := some { cs with
                timer := cs.timer + reportInterval s.settings, overrun := min 255 (cs.overrun + 1) } }
        else startCycle c (s.reportTimed c cs)
      else s.reportTimed c cs := by
  have htimed : (s.reportTimed c cs).chan c =
      { s.chan c with cycles := some { cs with timer := cs.timer + reportInterval s.settings } } := by
    rw [State.reportTimed, setChan_chan_same]
  have hhold : (s.reportTimed c cs).inHold c = true ↔ (s.chan c).state = .hold := by
    simp [State.inHold, htimed]
  have hbusy : cycleInProgress (s.reportTimed c cs) c = true ↔ cs.current ≠ none ∨ (s.chan c).abandoned ≠ none := by
    simp [cycleInProgress, htimed, Channel.current, Option.isSome_iff_ne_none]
  unfold reportDue
  simp only [hcs, modChan_eq, reach_chan, reach_settings]
  rw [show (reach cs.timer s).setChan c _ = s.reportTimed c cs from rfl]
  simp only [hhold, hbusy, htimed]

/-- Settles O29: the branches of `reportDue_eq`, the next cycle by `startCycle_eq_noticed`. -/
theorem reportTimerStartsACycle : Obligations.ReportTimerStartsACycle := by
  intro s c cs hr hcs next b
  have hb : s.reportTimed c cs = b := rfl
  rw [exec_reportTimerExpiry c hr, reportDue_eq hcs, hb]
  refine ⟨fun hst hcur hab n pen hn hpen => ?starts, fun hst hbusy => ?overruns, fun t0 hst => ?yields⟩
  case starts =>
    have hchan : b.chan c = { s.chan c with cycles := some next } := setChan_chan_same ..
    have hstart := startCycle_eq_noticed c b next pen (by rw [hchan]) (by rw [hchan]; exact hpen)
    have hnumber : next.number = some n := hn
    rw [if_pos hst, if_neg (by simp [hcur, hab]), hstart, CycleState.nextNumber, hnumber]
    simp
  case overruns => rw [if_pos hst, if_pos hbusy]; rfl
  case yields => rw [if_neg (by rw [hst]; nofun)]

/-! ### The barrier (O30) -/

/-- The barrier is reached: TIP begins and asks for the tip sequence with the cycle's windows (R114, R115). -/
theorem reachBarrier_eq {c : Chan} {s : State} {cs : CycleState} {cy : Cycle} {rec : CycleRecord} (fault : Bool)
    (hcs : (s.chan c).cycles = some cs) (hcy : cs.current = some cy) (hrec : (s.chan c).record = some rec) :
    reachBarrier c fault s =
      (s.setChan c
        { s.chan c with
          cycles := some { cs with current := some { cy with phase := .tip, barrier := none, ringFault := fault } } },
        some { ch := c, ask := .tip rec.windowX rec.windowY }) := by
  unfold reachBarrier
  simp only [modCycle_eq _ hcs hcy, askTip]
  rw [cycleWindows_of_record (rec := rec) (by rw [setChan_chan_same]; exact hrec)]

/-- BARRIER_TIMER_EXPIRY reaches the barrier at the timer's moment (R114). -/
theorem exec_barrierTimerExpiry {s : State} {c : Chan} {cy : Cycle} {t : Nat} (hr : s.inReset = false)
    (hcy : (s.chan c).current = some cy) (ht : cy.barrier = some t) :
    exec (.barrierTimerExpiry c) s = .next (settleReaction (reachBarrier c true (reach t s))) := by
  have hexec : exec (.barrierTimerExpiry c) s = execBarrierTimerExpiry c s := rfl
  simp [hexec, execBarrierTimerExpiry, unlessReset, hr, barrierDue, hcy, expires, ht]

/-- A NOTICE that returns reaches the barrier of the cycle of its number in NOTICE WAIT (R114). -/
theorem noticeReturns_of_awaited {c : Chan} {s : State} {cs : CycleState} {cy : Cycle} {n : Nat}
    (hcs : (s.chan c).cycles = some cs) (hcy : cs.current = some cy) (hphase : cy.phase = .noticeWait)
    (hn : cs.number = some n) : noticeReturns c n s = reachBarrier c false s := by
  unfold noticeReturns
  simp only [hcs, hcy]
  exact if_pos ⟨hphase, hn⟩

/-- Any other NOTICE that returns is passed over (R114, R120). -/
theorem noticeReturns_of_not_awaited {c : Chan} {s : State} {n : Nat}
    (h : ∀ cs cy, (s.chan c).cycles = some cs → cs.current = some cy → cy.phase ≠ .noticeWait ∨ cs.number ≠ some n) :
    noticeReturns c n s = (s, none) := by
  unfold noticeReturns
  cases hcs : (s.chan c).cycles with
  | none => rfl
  | some cs =>
    cases hcy : cs.current with
    | none => simp only [hcy]
    | some cy =>
      simp only [hcy]
      exact if_neg fun hboth => (h cs cy hcs hcy).elim (· hboth.1) (· hboth.2)

/-- An own NOTICE that returns is heard by the channel it names, if it names one (R114, R144, log 9). -/
theorem exec_noticeReturn {s : State} (dt : Nat) {rest : List Byte} (hr : s.inReset = false) (hu : s.link.up = true)
    (h3 : 3 ≤ rest.length) (h22 : rest.length ≤ 22)
    (hc : crcGood (kindByte .notice :: byteOf (ownIndex s.straps) :: rest) = true) :
    exec (.noticeReturn dt rest) s = .next (settleReaction
      (onReturn .notice (kindByte .notice :: byteOf (ownIndex s.straps) :: rest) (s.heardLink dt))) := by
  have hexec : exec (.noticeReturn dt rest) s = .next (ownArrives (kindByte .notice) dt rest s) := rfl
  have hkind : kindOf ((kindByte .notice :: byteOf (ownIndex s.straps) :: rest).getD 0 0) = some .notice := by
    rw [kindOf_eq_some_iff]; rfl
  rw [hexec, ownArrives_eq_ownReturns _ dt rest s hr hu h3 h22 hc, ownReturns, hkind]

/-- The returned NOTICE goes to the channel at its place with the number at its place (R144, log 9). -/
theorem onReturn_notice_of_chan {o : List Byte} {c : Chan} (h : octetAt o 3 = chanIndex c) (s : State) :
    onReturn .notice o s = noticeReturns c (word2 o 4) s := by
  unfold onReturn
  rw [(readChan_eq_some_iff _ c).2 h]

/-- A returned NOTICE whose channel octet names no channel is passed over (log 9). -/
theorem onReturn_notice_of_no_chan {o : List Byte} (h : readChan (octetAt o 3) = none) (s : State) :
    onReturn .notice o s = (s, none) := by
  unfold onReturn
  rw [h]

/-- Settles O30: `reachBarrier_eq` at the timer's moment and at the return's, and the returns that are passed over. -/
theorem barrierIsReached : Obligations.BarrierIsReached := by
  refine ⟨fun s c cs cy rec hr hcs hcy hrec => ?reached, fun s dt rest hr hu h3 h22 => ?passed⟩
  case reached =>
    intro tip
    have hcur : (s.chan c).current = some cy := by simp [Channel.current, hcs, hcy]
    have hreach : ∀ (fault : Bool) (b : State), b.chan c = s.chan c →
        settleReaction (reachBarrier c fault b) = tip fault b := by
      intro fault b hb
      rw [reachBarrier_eq fault (by rw [hb]; exact hcs) hcy (by rw [hb]; exact hrec), hb]
      rfl
    refine ⟨fun t0 ht => ?expired, fun dt rest n hu h3 h22 hcrc hname hn => ?returned⟩
    case expired => rw [exec_barrierTimerExpiry hr hcur ht, hreach true _ (reach_chan ..)]; rfl
    case returned =>
      have hchan : (s.heardLink dt).chan c = s.chan c := by cases c <;> rfl
      have hcs' : ((s.heardLink dt).chan c).cycles = some cs := by rw [hchan, hcs]
      rw [exec_noticeReturn dt hr hu h3 h22 hcrc, onReturn_notice_of_chan hname, hn]
      refine ⟨fun hphase hnumber => ?_, fun hother => ?_⟩
      · rw [noticeReturns_of_awaited hcs' hcy hphase hnumber, hreach false _ hchan]
      · rw [noticeReturns_of_not_awaited]
        · rfl
        · intro cs₁ cy₁ hcs₁ hcy₁
          cases hcs'.symm.trans hcs₁
          cases hcy.symm.trans hcy₁
          exact hother
  case passed =>
    intro o hcrc hnone
    rw [exec_noticeReturn dt hr hu h3 h22 hcrc]
    cases hname : readChan (octetAt o 3) with
    | none => rw [onReturn_notice_of_no_chan hname]; rfl
    | some d =>
      have hchan : (s.heardLink dt).chan d = s.chan d := by cases d <;> rfl
      rw [onReturn_notice_of_chan (readChan_eq_some hname), noticeReturns_of_not_awaited]
      · rfl
      · intro cs cy hcs hcy
        rw [hchan] at hcs
        cases (hnone d cs (readChan_eq_some hname) hcs).symm.trans hcy

/-! ### The age of an arming record (O32) -/

/-- AGE_TIMER_EXPIRY ends the arming record at the timer's moment (R124). -/
theorem exec_ageTimerExpiry {s : State} {c : Chan} {a : Arming} (hr : s.inReset = false)
    (ha : (s.chan c).arming = some a) : exec (.ageTimerExpiry c) s = .next (ageOut c a (reach a.timer s)) := by
  simp [exec, execAgeTimerExpiry, unlessReset, hr, ageDue, ha]

/-- A record that holds no tip capture, or both captures, ends without a BORDER (R124). -/
theorem ageOut_of_silent {a : Arming} (h : a.tip = none ∨ a.collar ≠ none) (c : Chan) (s : State) :
    ageOut c a s = setArming c none s := by
  unfold ageOut
  split
  · rename_i t htip hcollar
    rcases h with h | h
    · cases h.symm.trans htip
    · exact absurd hcollar h
  · rfl

/-- A record that holds the tip capture alone ends with a BORDER (R124). -/
theorem ageOut_of_tip_alone {a : Arming} {v : Capture} (ht : a.tip = some v) (hc : a.collar = none) (c : Chan) (s : State) :
    ageOut c a s = queueFrame (.border (borderOf c a v none)) (setArming c none s) := by
  unfold ageOut
  simp only [ht, hc]

/-- An arming record set, as one update of the channel. -/
theorem setArming_eq (c : Chan) (a : Option Arming) (s : State) :
    setArming c a s = s.setChan c { s.chan c with arming := a } := rfl

/-- Settles O32: `ageOut` without a BORDER and with one, its collar places all 0. -/
theorem armingRecordAgesOut : Obligations.ArmingRecordAgesOut := by
  intro s c a hr ha gone
  have hgone : setArming c none (reach a.timer s) = gone := by rw [setArming_eq, reach_chan]; rfl
  rw [exec_ageTimerExpiry hr ha]
  refine ⟨fun hsilent => ?silent, fun v hv hcollar => ?border⟩
  case silent => rw [ageOut_of_silent hsilent, hgone]
  case border =>
    intro place
    have hlink : gone.link = s.link := setChan_link ..
    rw [ageOut_of_tip_alone hv hcollar, hgone, queueFrame, hlink]
    rfl

end Sys2Proof.Machine
end

section
/-! PROOFS. NOTICE at another tile: its effect on the channel, and the arming record for the want that names this tile (R121, R134, R136). -/

namespace Sys2Proof.Machine

/-! ### The want that names this tile (R121) -/

/-- A want on the low side of X names the tile one column below, on its high side (R121). -/
theorem namedOn_X_low {st : Straps} {origin n : Nat} (hn : 0 < n) (hcol : st.col.val + 1 = origin % 8)
    (hrow : st.row.val = origin / 8) :
    namedOn st origin .X ⟨some .low, n⟩ = some ⟨.X, .high, origin % 8 * 48 - n, n⟩ := by
  simp [namedOn, hn.ne', hcol, hrow]

/-- A want on the high side of X names the tile one column above, on its low side (R121). -/
theorem namedOn_X_high {st : Straps} {origin n : Nat} (hn : 0 < n) (hcol : st.col.val = origin % 8 + 1)
    (hrow : st.row.val = origin / 8) :
    namedOn st origin .X ⟨some .high, n⟩ = some ⟨.X, .low, origin % 8 * 48 + 48, n⟩ := by
  simp [namedOn, hn.ne', hcol, hrow]

/-- A want on the low side of Y names the tile one row below, on its high side (R121). -/
theorem namedOn_Y_low {st : Straps} {origin n : Nat} (hn : 0 < n) (hcol : st.col.val = origin % 8)
    (hrow : st.row.val + 1 = origin / 8) :
    namedOn st origin .Y ⟨some .low, n⟩ = some ⟨.Y, .high, origin / 8 * 32 - n, n⟩ := by
  simp [namedOn, hn.ne', hcol, hrow]

/-- A want on the high side of Y names the tile one row above, on its low side (R121). -/
theorem namedOn_Y_high {st : Straps} {origin n : Nat} (hn : 0 < n) (hcol : st.col.val = origin % 8)
    (hrow : st.row.val = origin / 8 + 1) :
    namedOn st origin .Y ⟨some .high, n⟩ = some ⟨.Y, .low, origin / 8 * 32 + 32, n⟩ := by
  simp [namedOn, hn.ne', hcol, hrow]

/-- A want on X that is empty, of another row, or on a side where this tile does not adjoin names it not (R121). -/
theorem namedOn_X_eq_none {st : Straps} {origin : Nat} {w : WantField}
    (h : w.count = 0 ∨ w.side = none ∨ st.row.val ≠ origin / 8 ∨ (w.side = some .low ∧ st.col.val + 1 ≠ origin % 8) ∨
      (w.side = some .high ∧ st.col.val ≠ origin % 8 + 1)) : namedOn st origin .X w = none := by
  unfold namedOn
  by_cases hcount : w.count = 0
  · exact if_pos hcount
  rw [if_neg hcount]
  cases hside : w.side with
  | none => rfl
  | some side =>
    cases side <;> exact if_neg (by simp [hcount, hside] at h; omega)

/-- A want on Y that is empty, of another column, or on a side where this tile does not adjoin names it not (R121). -/
theorem namedOn_Y_eq_none {st : Straps} {origin : Nat} {w : WantField}
    (h : w.count = 0 ∨ w.side = none ∨ st.col.val ≠ origin % 8 ∨ (w.side = some .low ∧ st.row.val + 1 ≠ origin / 8) ∨
      (w.side = some .high ∧ st.row.val ≠ origin / 8 + 1)) : namedOn st origin .Y w = none := by
  unfold namedOn
  by_cases hcount : w.count = 0
  · exact if_pos hcount
  rw [if_neg hcount]
  cases hside : w.side with
  | none => rfl
  | some side =>
    cases side <;> exact if_neg (by simp [hcount, hside] at h; omega)

/-- The want on X comes first (R121). -/
theorem namedBy_of_X {st : Straps} {origin : Nat} {wx : WantField} {named : Named}
    (h : namedOn st origin .X wx = some named) (wy : WantField) : namedBy st origin wx wy = some named := by
  simp [namedBy, h]

/-- With no want on X that names this tile the one on Y decides (R121). -/
theorem namedBy_of_not_X {st : Straps} {origin : Nat} {wx : WantField} (h : namedOn st origin .X wx = none)
    (wy : WantField) : namedBy st origin wx wy = namedOn st origin .Y wy := by
  simp [namedBy, h]

/-! ### The arming record (R121) -/

/-- The record a NOTICE leaves at this tile, none when no want names it (R121). -/
def armingFor (origin cycle : Nat) (wx wy : WantField) (s : State) : Option Arming :=
  (namedBy s.straps origin wx wy).map (armingOf origin cycle s.now)

/-- A tile that still holds the channel is not armed (R121). -/
theorem considerArming_of_holding {c : Chan} {s : State} (h : s.holding c = true) (origin cycle : Nat) (wx wy : WantField) :
    considerArming c origin cycle wx wy s = s := if_pos h

/-- A tile that does not hold the channel has its arming record replaced (R121). -/
theorem considerArming_of_not_holding {c : Chan} {s : State} (h : s.holding c = false) (origin cycle : Nat)
    (wx wy : WantField) :
    considerArming c origin cycle wx wy s = setArming c (armingFor origin cycle wx wy s) s := if_neg (by simp [h])

/-- A channel that stands by is not held (R95). -/
theorem holding_of_standby {c : Chan} {s : State} {holder t : Nat} (h : (s.chan c).state = .standby holder t) :
    s.holding c = false := by simp [State.holding, h]

/-- A move and a release leave straps and clock alone, so the record a NOTICE leaves (R121). -/
theorem armingFor_moved (origin cycle : Nat) (wx wy : WantField) (c : Chan) (st : ChanState) (s : State) :
    armingFor origin cycle wx wy (s.moved c st) = armingFor origin cycle wx wy s := by
  unfold State.moved State.unsought State.entered
  split
  · split <;> cases c <;> rfl
  · cases c <;> rfl

theorem armingFor_released (origin cycle : Nat) (wx wy : WantField) (c : Chan) (st : ChanState) (s : State) :
    armingFor origin cycle wx wy (s.released c st) = armingFor origin cycle wx wy s := by
  cases c <;> rfl

/-- An arming record plays no part in the dormant timer (R93). -/
theorem timeDormant_setArming (c : Chan) (a : Option Arming) (s : State) :
    timeDormant (setArming c a s) = setArming c a (timeDormant s) := by cases c <;> rfl

/-! ### NOTICE (O38) -/

/-- A channel that holds no pen stands by and is considered for arming (R121, R134). -/
theorem onNotice_of_unheld {c : Chan} {s : State} (h : (s.chan c).state.unheld) (origin cycle : Nat) (wx wy : WantField) :
    onNotice c origin cycle wx wy s =
      setArming c (armingFor origin cycle wx wy s) (s.moved c (.standby origin (s.now + msec 50))) := by
  obtain ⟨hst, -⟩ := moved_chan c (.standby origin (s.now + msec 50)) s
  rw [onNotice, holderHeard_of_unheld h, considerArming_of_not_holding (holding_of_standby hst), armingFor_moved]

/-- A held channel of the lower index is kept (R136). -/
theorem onNotice_of_kept {c : Chan} {s : State} {origin : Nat} (h : s.holding c = true) (ho : ownIndex s.straps < origin)
    (cycle : Nat) (wx wy : WantField) : onNotice c origin cycle wx wy s = s := by
  rw [onNotice, holderHeard_of_holding h, if_pos ho, considerArming_of_holding h]

/-- A held channel of the higher index is released and considered for arming (R121, R136). -/
theorem onNotice_of_released {c : Chan} {s : State} {origin : Nat} (h : s.holding c = true)
    (ho : origin < ownIndex s.straps) (cycle : Nat) (wx wy : WantField) :
    onNotice c origin cycle wx wy s =
      setArming c (armingFor origin cycle wx wy s) (s.released c (.standby origin (s.now + msec 50))) := by
  obtain ⟨hst, -⟩ := released_chan c (.standby origin (s.now + msec 50)) s
  rw [onNotice, holderHeard_of_holding h, if_neg (Nat.not_lt.2 ho.le),
    considerArming_of_not_holding (holding_of_standby hst), armingFor_released]

/-- Settles O38: `onNotice` for a channel not held, kept and released, with the record of each want that can name this tile. -/
theorem noticeArmsTheNeighbour : Obligations.NoticeArmsTheNeighbour := by
  intro dt o c n st wx wy s harr own oc orow col row b view armed answer record
  have hexec : exec (.notice dt (o.drop 1)) s = .next (timeDormant (onNotice c (originOf o) n wx wy b)) :=
    exec_command_of_pen dt harr c rfl nofun
  obtain ⟨hchan, henabled, hholding, hstraps, -⟩ := woken_chan c (s.copied dt o)
  have hchan' : b.chan c = s.chan c := hchan
  have hholding' : b.holding c = s.holding c := hholding
  have hown : ownIndex b.straps = own := congrArg ownIndex hstraps
  have hen : b.enabled c = true := by
    obtain ⟨-, -, -, -, -, -, -, -, -, hen⟩ := harr
    exact henabled.trans (hen c rfl)
  have hanswer : answer (armingFor (originOf o) n wx wy b) := by
    refine ⟨fun hunheld => ?standsBy, fun hheld hlow => ?kept, fun hheld hhigh => ?released⟩
    case standsBy =>
      rw [hexec, onNotice_of_unheld (by rw [hchan']; exact hunheld), timeDormant_setArming,
        timeDormant_moved c (.standby _ _) b hen nofun]
      rfl
    case kept =>
      rw [hexec, onNotice_of_kept (by rw [hholding']; exact hheld) (by rw [hown]; exact hlow)]
      rfl
    case released =>
      rw [hexec, onNotice_of_released (by rw [hholding']; exact hheld) (by rw [hown]; exact hhigh), timeDormant_setArming,
        timeDormant_released c (.standby _ _) b hen nofun]
      rfl
  have harms : ∀ named, namedBy s.straps (originOf o) wx wy = named →
      answer (named.map (armingOf (originOf o) n b.now)) := by
    intro named hnamed
    have hrecord : armingFor (originOf o) n wx wy b = named.map (armingOf (originOf o) n b.now) := by
      rw [armingFor, show b.straps = s.straps from hstraps, hnamed]
    rw [← hrecord]
    exact hanswer
  have hnotX : row ≠ orow → namedBy s.straps (originOf o) wx wy = namedOn s.straps (originOf o) .Y wy := fun hrow =>
    namedBy_of_not_X (namedOn_X_eq_none (.inr (.inr (.inl hrow)))) wy
  refine ⟨fun w hw hx hcol hrow => ?lowX, fun w hw hx hcol hrow => ?highX, fun w hw hy hcol hrow => ?lowY,
    fun w hw hy hcol hrow => ?highY, fun hx hy => ?unnamed⟩
  case lowX => exact harms (some _) (namedBy_of_X (hx ▸ namedOn_X_low hw hcol hrow) wy)
  case highX => exact harms (some _) (namedBy_of_X (hx ▸ namedOn_X_high hw hcol hrow) wy)
  case lowY => exact harms (some _) ((hnotX (by omega)).trans (hy ▸ namedOn_Y_low hw hcol hrow))
  case highY => exact harms (some _) ((hnotX (by omega)).trans (hy ▸ namedOn_Y_high hw hcol hrow))
  case unnamed => exact harms none ((namedBy_of_not_X (namedOn_X_eq_none hx) wy).trans (namedOn_Y_eq_none hy))

end Sys2Proof.Machine
end

section
/-! PROOFS. What the ring's law speaks of, and that the tracker, the engine and the timers leave it alone (R142, R144, R145). -/

namespace Sys2Proof.Machine

/-! ### The part of the state the law speaks of -/

/-- What `RingLawful` speaks of: the insertion buffer, the frame in reception, the straps, and whether the part is in reset. -/
def State.ringPart (s : State) : List (List Byte) × Option (List Byte) × Straps × Bool :=
  (s.link.buffer, s.link.reception, s.straps, s.inReset)

theorem ringLawful_of_ringPart {s t : State} (h : t.ringPart = s.ringPart) (hs : RingLawful s) : RingLawful t := by
  simp only [State.ringPart, Prod.mk.injEq] at h
  obtain ⟨hbuffer, hreception, hstraps, hreset⟩ := h
  unfold RingLawful
  rw [hbuffer, hreception, hstraps, hreset]
  exact hs

/-- The part of a state written out, for updates of other fields. -/
@[simp] theorem ringPart_mk (now : Nat) (pending : List Instr) (r : Bool) (u : Nat) (st : Straps) (ld : Loader)
    (set : Settings) (m : Mode) (e : Engine) (ds : List Detector) (q : List Request) (b : Baseline) (cA cB : Channel)
    (k : Seek) (d : Option Nat) (l : Link) :
    State.ringPart ⟨now, pending, r, u, st, ld, set, m, e, ds, q, b, cA, cB, k, d, l⟩ =
      (l.buffer, l.reception, st, r) := rfl

/-- The four fields of a state gathered into its part again. -/
@[simp] theorem ringPart_gathered (s : State) : (s.link.buffer, s.link.reception, s.straps, s.inReset) = s.ringPart := rfl

/-! ### Single updates -/

@[simp] theorem ringPart_setChan (c : Chan) (ch : Channel) (s : State) : (s.setChan c ch).ringPart = s.ringPart := by
  cases c <;> rfl

@[simp] theorem ringPart_modChan (c : Chan) (g : Channel → Channel) (s : State) : (s.modChan c g).ringPart = s.ringPart :=
  ringPart_setChan ..

@[simp] theorem ringPart_setState (c : Chan) (st : ChanState) (s : State) : (setState c st s).ringPart = s.ringPart :=
  ringPart_modChan ..

@[simp] theorem ringPart_setArming (c : Chan) (a : Option Arming) (s : State) : (setArming c a s).ringPart = s.ringPart :=
  ringPart_modChan ..

@[simp] theorem ringPart_modCycle (c : Chan) (g : Cycle → Cycle) (s : State) : (modCycle c g s).ringPart = s.ringPart :=
  ringPart_modChan ..

@[simp] theorem ringPart_modRecord (c : Chan) (g : CycleRecord → CycleRecord) (s : State) :
    (modRecord c g s).ringPart = s.ringPart := ringPart_modChan ..

@[simp] theorem ringPart_setSpacing (c : Chan) (n : Nat) (s : State) : (setSpacing c n s).ringPart = s.ringPart :=
  ringPart_modChan ..

@[simp] theorem ringPart_dropRecords (c : Chan) (s : State) : (dropRecords c s).ringPart = s.ringPart := ringPart_modChan ..

@[simp] theorem ringPart_enterYield (c : Chan) (s : State) : (enterYield c s).ringPart = s.ringPart := ringPart_modChan ..

@[simp] theorem ringPart_reach (n : Nat) (s : State) : (reach n s).ringPart = s.ringPart := rfl

@[simp] theorem ringPart_elapse (dt : Nat) (s : State) : (elapse dt s).ringPart = s.ringPart := rfl

@[simp] theorem ringPart_withdraw (w : Request → Bool) (s : State) : (withdraw w s).ringPart = s.ringPart := rfl

@[simp] theorem ringPart_abandonRunning (w : Job → Bool) (s : State) : (abandonRunning w s).ringPart = s.ringPart := by
  simp [State.ringPart, -ringPart_gathered]

@[simp] theorem ringPart_timeDormant (s : State) : (timeDormant s).ringPart = s.ringPart := rfl

@[simp] theorem ringPart_endPass (s : State) : (endPass s).ringPart = s.ringPart := rfl

@[simp] theorem ringPart_backOff (s : State) : (backOff s).ringPart = s.ringPart := rfl

@[simp] theorem ringPart_wake (s : State) : (wake s).ringPart = s.ringPart := by simp [State.ringPart, -ringPart_gathered]

/-- An own frame waits in the own queue, not in the insertion buffer (R149, R150). -/
@[simp] theorem ringPart_queueFrame (f : Frame) (s : State) : (queueFrame f s).ringPart = s.ringPart := by
  have hpush : (s.link.push f).buffer = s.link.buffer ∧ (s.link.push f).reception = s.link.reception := by
    unfold Link.push; split <;> exact ⟨rfl, rfl⟩
  unfold queueFrame
  rw [ringPart_mk, hpush.1, hpush.2]
  rfl

/-! ### Leaving a state and seeking (R93 to R103, R120) -/

@[simp] theorem ringPart_beginPass (s : State) : (beginPass s).1.ringPart = s.ringPart := by
  unfold beginPass; split <;> simp

@[simp] theorem ringPart_abandonPass (c : Chan) (s : State) : (abandonPass c s).ringPart = s.ringPart := by
  unfold abandonPass; split
  · split <;> simp
  · rfl

@[simp] theorem ringPart_abandonCycle (c : Chan) (s : State) : (abandonCycle c s).ringPart = s.ringPart := by
  simp [abandonCycle]

@[simp] theorem ringPart_leaveState (c : Chan) (s : State) : (leaveState c s).ringPart = s.ringPart := by
  unfold leaveState; split <;> simp

@[simp] theorem ringPart_enterSeek (c : Chan) (s : State) : (enterSeek c s).1.ringPart = s.ringPart := by
  unfold enterSeek
  simp only
  split <;> simp

@[simp] theorem ringPart_moveTo (c : Chan) (st : ChanState) (s : State) : (moveTo c st s).ringPart = s.ringPart := by
  simp [moveTo]

@[simp] theorem ringPart_standBy (c : Chan) (n : Nat) (s : State) : (standBy c n s).ringPart = s.ringPart :=
  ringPart_moveTo ..

@[simp] theorem ringPart_deferTo (c : Chan) (s : State) : (deferTo c s).ringPart = s.ringPart := ringPart_moveTo ..

@[simp] theorem ringPart_find (c : Chan) (n x y : Nat) (s : State) : (find c n x y s).ringPart = s.ringPart := by
  simp [find]

@[simp] theorem ringPart_nextGroup (c : Chan) (pos : Nat) (s : State) : (nextGroup c pos s).1.ringPart = s.ringPart := by
  unfold nextGroup; split <;> simp

@[simp] theorem ringPart_seekXResult (c : Chan) (w pos : Nat) (s : State) :
    (seekXResult c w pos s).1.ringPart = s.ringPart := by
  unfold seekXResult
  simp only
  split <;> simp

@[simp] theorem ringPart_seekYResult (c : Chan) (w pos g p n posY : Nat) (s : State) :
    (seekYResult c w pos g p n posY s).1.ringPart = s.ringPart := by
  unfold seekYResult
  simp only
  split
  · simp
  · split <;> simp

@[simp] theorem ringPart_seekResult (c : Chan) (seq : Sequence) (s : State) :
    (seekResult c seq s).1.ringPart = s.ringPart := by
  unfold seekResult; split
  · split
    · rfl
    split
    · simp
    split <;> simp
  · rfl

/-! ### Holding (R105, R111 to R120, R126 to R131, R137) -/

@[simp] theorem ringPart_startCycle (c : Chan) (s : State) : (startCycle c s).ringPart = s.ringPart := by
  unfold startCycle; split <;> simp

@[simp] theorem ringPart_startFirst (c : Chan) (s : State) : (startFirst c s).ringPart = s.ringPart := by
  unfold startFirst; split <;> simp

@[simp] theorem ringPart_enterHold (c : Chan) (pen : Pen) (level n first : Nat) (byTake : Bool) (s : State) :
    (enterHold c pen level n first byTake s).ringPart = s.ringPart := by
  simp [enterHold]

@[simp] theorem ringPart_decideClaim (c : Chan) (cl : Claim) (s : State) : (decideClaim c cl s).ringPart = s.ringPart := by
  unfold decideClaim; split <;> simp

@[simp] theorem ringPart_takePen (origin : Nat) (y : YieldFields) (s : State) :
    (takePen origin y s).ringPart = s.ringPart := by
  simp [takePen]

@[simp] theorem ringPart_reachBarrier (c : Chan) (fault : Bool) (s : State) :
    (reachBarrier c fault s).1.ringPart = s.ringPart := ringPart_modCycle ..

@[simp] theorem ringPart_yieldTest (c : Chan) (ct : Contents) (n k : Nat) (s : State) :
    (yieldTest c ct n k s).ringPart = s.ringPart := by
  unfold yieldTest; split
  · simp
  · split <;> simp

@[simp] theorem ringPart_finishCycle (c : Chan) (ct : Contents) (disturbed lost : Bool) (s : State) :
    (finishCycle c ct disturbed lost s).1.ringPart = s.ringPart := by
  unfold finishCycle; split
  · split
    · cases lost <;> simp [loseChannel]
    · rfl
  · rfl

@[simp] theorem ringPart_endBorderWait (c : Chan) (s : State) : (endBorderWait c s).1.ringPart = s.ringPart := by
  unfold endBorderWait; split <;> simp

@[simp] theorem ringPart_endHeld (c : Chan) (s : State) : (endHeld c s).1.ringPart = s.ringPart := by
  unfold endHeld; split <;> simp

@[simp] theorem ringPart_beginBorderWait (c : Chan) (s : State) : (beginBorderWait c s).1.ringPart = s.ringPart := by
  unfold beginBorderWait
  simp only
  split
  · split <;> simp
  · simp

@[simp] theorem ringPart_tipResult (c : Chan) (seq : Sequence) (s : State) :
    (tipResult c seq s).1.ringPart = s.ringPart := by
  unfold tipResult; split
  · split
    · rfl
    split
    · simp
    split <;> simp
  · rfl

@[simp] theorem ringPart_collarResult (c : Chan) (seq : Sequence) (s : State) :
    (collarResult c seq s).1.ringPart = s.ringPart := by
  unfold collarResult; split
  · split
    · rfl
    split <;> simp
  · rfl

@[simp] theorem ringPart_abandonedEnds (c : Chan) (s : State) : (abandonedEnds c s).ringPart = s.ringPart := by
  unfold abandonedEnds
  simp only
  split
  · split <;> simp
  · simp

/-! ### Arming and captures (R30, R117, R121 to R124) -/

@[simp] theorem ringPart_considerArming (c : Chan) (origin n : Nat) (wx wy : WantField) (s : State) :
    (considerArming c origin n wx wy s).ringPart = s.ringPart := by
  unfold considerArming; split <;> simp

@[simp] theorem ringPart_captureResult (c : Chan) (k : Coil) (seq : Sequence) (s : State) :
    (captureResult c k seq s).ringPart = s.ringPart := by
  have hcomplete : ∀ a, (completeArming c a s).ringPart = s.ringPart := fun a => by
    unfold completeArming; split <;> simp
  unfold captureResult; split
  · split
    · rfl
    split
    · simp
    · exact hcomplete _
  · rfl

@[simp] theorem ringPart_ageOut (c : Chan) (a : Arming) (s : State) : (ageOut c a s).ringPart = s.ringPart := by
  unfold ageOut; split <;> simp

@[simp] theorem ringPart_onBorder (origin : Nat) (b : Border) (s : State) :
    (onBorder origin b s).1.ringPart = s.ringPart := by
  unfold onBorder; split
  · unfold takeBorder
    simp only
    split
    · split
      · split <;> simp
      · simp
    · rfl
  · rfl

/-! ### Received copies and returns (R102 to R108, R114, R128 to R138, R167) -/

@[simp] theorem ringPart_becomeActive (s : State) : (becomeActive s).1.ringPart = s.ringPart := by
  unfold becomeActive
  simp only [ringPart_beginPass, ringPart_timeDormant]
  split <;> simp

@[simp] theorem ringPart_restartCommon (s : State) : (restartCommon s).ringPart = s.ringPart := by
  simp [restartCommon, restartSeek, restartChannel, restartEngine]

@[simp] theorem ringPart_softRestart (s : State) : (softRestart s).1.ringPart = s.ringPart := by
  unfold softRestart; split <;> simp

@[simp] theorem ringPart_holderHeard (c : Chan) (origin : Nat) (s : State) :
    (holderHeard c origin s).ringPart = s.ringPart := by
  have hduel : (duel c origin s).ringPart = s.ringPart := by unfold duel; split <;> simp
  unfold holderHeard; split <;> simp [hduel]

@[simp] theorem ringPart_penEffect (origin : Nat) (f : Frame) (s : State) :
    (penEffect origin f s).1.ringPart = s.ringPart := by
  cases f with
  | sighting c => simp only [penEffect, onSighting]; split <;> simp
  | notice => simp [penEffect, onNotice]
  | border => rfl
  | report => simp [penEffect]
  | yield =>
    simp only [penEffect, onYield]; split
    · split <;> simp
    · rfl
  | take => simp only [penEffect, onTake]; split <;> simp
  | lost =>
    simp only [penEffect, onLost]; split
    · simp
    · split <;> simp
    · rfl
  | restart => rfl

@[simp] theorem ringPart_onCopy (origin : Nat) (f : Frame) (s : State) : (onCopy origin f s).1.ringPart = s.ringPart := by
  unfold onCopy; split
  · simp
  · split <;> simp
  · split <;> simp [penFrame]
  · rfl

@[simp] theorem ringPart_onReturn (k : Kind) (o : List Byte) (s : State) : (onReturn k o s).1.ringPart = s.ringPart := by
  unfold onReturn; split
  · unfold noticeReturns; split
    · split
      · split <;> simp
      · rfl
    · rfl
  · unfold sightingReturns; split <;> simp
  · rfl

/-! ### The engine and the arbiter (R16 to R35) -/

@[simp] theorem ringPart_enterPhase (ph : Phase) (seq : Sequence) (s : State) :
    (enterPhase ph seq s).ringPart = s.ringPart := rfl

@[simp] theorem ringPart_setDetector (f : Nat) (d : Detector) (s : State) : (setDetector f d s).ringPart = s.ringPart := rfl

@[simp] theorem ringPart_unmask (f : Nat) (b : Bool) (s : State) : (unmask f b s).ringPart = s.ringPart := rfl

@[simp] theorem ringPart_goIdle (s : State) : (goIdle s).ringPart = s.ringPart := rfl

@[simp] theorem ringPart_sampleFor (v : List Period) (s : State) : (sampleFor v s).ringPart = s.ringPart := rfl

@[simp] theorem ringPart_sampleUntilCut (l : Sampled) (s : State) : (sampleUntilCut l s).ringPart = s.ringPart := by
  rw [sampleUntilCut_eq_hearing]; rfl

@[simp] theorem ringPart_startSequence (ph : Phase) (seq : Sequence) (s : State) :
    (startSequence ph seq s).ringPart = s.ringPart := by
  simp [State.ringPart, -ringPart_gathered]

@[simp] theorem ringPart_fieldFalls (f : Nat) (s : State) : (fieldFalls f s).ringPart = s.ringPart := by
  unfold fieldFalls; split
  · unfold fallReported; split
    · split <;> simp
    · simp
  · rfl

@[simp] theorem ringPart_grant (s : State) : (grant s).ringPart = s.ringPart := by
  rcases grant_cases s with ⟨q, _, hg⟩ | ⟨_, _, q, _, hg⟩ | ⟨_, r, q, _, _, _, hg⟩ <;> simp [hg]

@[simp] theorem ringPart_submit (r : Option Request) (s : State) : (submit r s).ringPart = s.ringPart := by
  cases r <;> simp [submit]

@[simp] theorem ringPart_settleReaction (r : Reaction) : (settleReaction r).ringPart = r.1.ringPart := ringPart_submit ..

@[simp] theorem ringPart_baselineResult (slot : Nat) (seq : Sequence) (s : State) :
    (baselineResult slot seq s).1.ringPart = s.ringPart := by
  unfold baselineResult; split
  · rfl
  split
  · unfold sweepResult; simp only; split <;> simp [writeSweep, endSweep]
  · simp [completeRefresh]

@[simp] theorem ringPart_conclude (seq : Sequence) (s : State) : (conclude seq s).1.ringPart = s.ringPart := by
  unfold conclude; split
  · unfold discard; split <;> simp
  · unfold deliver; split <;> simp

@[simp] theorem ringPart_endSequence (seq : Sequence) (fall : Option Freq) (s : State) :
    (endSequence seq fall s).ringPart = s.ringPart := by
  cases fall <;> simp [endSequence, fallFirst]

@[simp] theorem ringPart_listenOver (seq : Sequence) (fall : Option Freq) (s : State) :
    (listenOver seq fall s).ringPart = s.ringPart := by
  unfold listenOver; split <;> simp [enterDamp]

@[simp] theorem ringPart_riseReported (f : Nat) (l : Sampled) (fall : Option Freq) (s : State) :
    (riseReported f l fall s).ringPart = s.ringPart := by
  unfold riseReported; split
  · split
    · split <;> simp
    · rfl
  · rfl

@[simp] theorem ringPart_fieldRises (f : Nat) (l : Sampled) (fall : Option Freq) (s : State) :
    (fieldRises f l fall s).ringPart = s.ringPart := by
  unfold fieldRises; split <;> simp

@[simp] theorem ringPart_phaseEnds (ph : Phase) {g : Sequence → State → State} (s : State)
    (hg : ∀ seq u, (g seq u).ringPart = u.ringPart) : (phaseEnds ph g s).ringPart = s.ringPart := by
  unfold phaseEnds; split
  · split <;> simp [hg]
  · rfl

@[simp] theorem ringPart_listenEnds (v : List Period) (fall : Option Freq) (seq : Sequence) (s : State) :
    (listenEnds v fall seq s).ringPart = s.ringPart := by
  simp [listenEnds]

@[simp] theorem ringPart_dampOver (foreign : Bool) (fall : Option Freq) (seq : Sequence) (s : State) :
    (dampOver foreign fall seq s).ringPart = s.ringPart := by
  simp [dampOver]

@[simp] theorem ringPart_driveOver (foreign : Bool) (seq : Sequence) (s : State) :
    (driveOver foreign seq s).ringPart = s.ringPart := by
  cases foreign <;> simp [driveOver]

/-! ### The timers, and the image -/

@[simp] theorem ringPart_expires (timer : Option Nat) {g : Nat → State → State} (s : State)
    (hg : ∀ t u, (g t u).ringPart = u.ringPart) : (expires timer g s).ringPart = s.ringPart := by
  cases timer <;> simp [expires, hg]

@[simp] theorem ringPart_refreshDue (t : Nat) (s : State) : (refreshDue t s).ringPart = s.ringPart := by simp [refreshDue]

@[simp] theorem ringPart_goDormant (t : Nat) (s : State) : (goDormant t s).ringPart = s.ringPart := rfl

@[simp] theorem ringPart_seekDue (t : Nat) (s : State) : (seekDue t s).ringPart = s.ringPart := by simp [seekDue]

@[simp] theorem ringPart_backoffDue (t : Nat) (s : State) : (backoffDue t s).ringPart = s.ringPart := by simp [backoffDue]

@[simp] theorem ringPart_reportDue (c : Chan) (s : State) : (reportDue c s).ringPart = s.ringPart := by
  unfold reportDue; split
  · rfl
  simp only
  split
  · split <;> simp
  · simp

@[simp] theorem ringPart_claimDue (c : Chan) (s : State) : (claimDue c s).ringPart = s.ringPart := by
  unfold claimDue; split <;> simp

@[simp] theorem ringPart_deferDue (c : Chan) (s : State) : (deferDue c s).ringPart = s.ringPart := by
  unfold deferDue; split <;> simp

@[simp] theorem ringPart_viewDue (c : Chan) (s : State) : (viewDue c s).ringPart = s.ringPart := by
  unfold viewDue; split <;> simp

@[simp] theorem ringPart_barrierDue (c : Chan) (s : State) : (barrierDue c s).ringPart = s.ringPart := by
  unfold barrierDue; split <;> simp

@[simp] theorem ringPart_borderDue (c : Chan) (s : State) : (borderDue c s).ringPart = s.ringPart := by
  unfold borderDue; split <;> simp

@[simp] theorem ringPart_yieldDue (c : Chan) (s : State) : (yieldDue c s).ringPart = s.ringPart := by
  unfold yieldDue; split <;> simp

@[simp] theorem ringPart_ageDue (c : Chan) (s : State) : (ageDue c s).ringPart = s.ringPart := by
  unfold ageDue; split <;> simp

@[simp] theorem ringPart_imageLoads (o : List Byte) (s : State) : (imageLoads o s).ringPart = s.ringPart := by
  unfold imageLoads; split
  · rfl
  unfold compareExtent; split <;> simp [beginSweep]

end Sys2Proof.Machine
end

section
/-! PROOFS. Every step keeps the law of the ring: what waits to be forwarded, and the frame in reception (O55; R142, R144, R145, R148, R153). -/

namespace Sys2Proof.Machine

/-! ### The law out of reset -/

/-- The ring's law of a part that is not held in reset. -/
structure RingInUse (s : State) : Prop where
  buffer : ∀ o ∈ s.link.buffer, Forwardable s.straps o
  reception : ∀ o, s.link.reception = some o → o.length ≤ 24
  out : s.inReset = false

theorem RingInUse.lawful {s : State} (h : RingInUse s) : RingLawful s :=
  ⟨h.buffer, h.reception, fun hr => absurd (h.out.symm.trans hr) nofun⟩

theorem RingLawful.inUse {s : State} (h : RingLawful s) (hout : s.inReset = false) : RingInUse s := ⟨h.1, h.2.1, hout⟩

/-- A command that only a reset stops keeps the law when its meaning does out of reset. -/
theorem RingLawful.unlessReset {f : State → State} {s : State} (h : RingLawful s) (hf : RingInUse s → RingInUse (f s)) :
    RingLawful (unlessReset f s) := by
  unfold Machine.unlessReset
  split
  · exact h
  · rename_i hr
    exact (hf (h.inUse (by simpa using hr))).lawful

namespace RingInUse

variable {s : State} (h : RingInUse s)
include h

theorem congr {t : State} (ht : t.ringPart = s.ringPart) : RingInUse t := by
  have hout : t.inReset = s.inReset := by
    simp only [State.ringPart, Prod.mk.injEq] at ht
    exact ht.2.2.2
  exact (ringLawful_of_ringPart ht h.lawful).inUse (hout.trans h.out)

/-! ### Received frames (R141 to R148) -/

theorem setReception {r : Option (List Byte)} (hr : ∀ o, r = some o → o.length ≤ 24) : RingInUse (setReception r s) :=
  ⟨h.buffer, hr, h.out⟩

/-- What joins the insertion buffer has passed the checks of origin and hop count (R144, R145). -/
theorem receiveFrame {o : List Byte} (h5 : 5 ≤ o.length) (h24 : o.length ≤ 24) : RingInUse (receiveFrame o s) := by
  unfold Machine.receiveFrame
  split
  · exact h
  split
  · refine h.congr ?_
    unfold ownReturns
    split <;> simp
  rename_i horigin
  split
  · exact h
  rename_i hhop
  split
  · exact h
  have hcopy : ∀ u : State, (handCopy o u).ringPart = u.ringPart := fun u => by
    unfold handCopy
    split
    · rfl
    split
    · rfl
    split <;> simp
  have hjoined : RingInUse { s with link := { s.link with buffer := s.link.buffer ++ [o] } } := by
    refine ⟨fun p hp => ?_, h.reception, h.out⟩
    rcases List.mem_append.1 hp with hp | hp
    · exact h.buffer p hp
    · obtain rfl := List.mem_singleton.1 hp
      exact ⟨h5, h24, horigin, Nat.not_le.1 hhop⟩
  exact hjoined.congr (hcopy _)

/-- A symbol on an UP link leaves at most 24 octets in reception, and only 5 to 24 reach the checks (R142). -/
theorem symbolUp (sym : Symbol) : RingInUse (symbolUp sym s) := by
  have hdropped : RingInUse (Machine.setReception none s) := h.setReception nofun
  unfold Machine.symbolUp
  split
  · exact h.setReception fun o ho => by cases ho; exact Nat.zero_le _
  · split
    · rename_i hroom
      exact h.setReception fun o ho => by cases ho; simpa using hroom
    · exact hdropped
  · rename_i o ho
    split
    · rename_i h5
      exact hdropped.receiveFrame h5 (h.reception o ho)
    · exact hdropped
  · exact hdropped
  · exact hdropped
  · exact h

theorem symbolDown (sym : Symbol) : RingInUse (symbolDown sym s) := by
  unfold Machine.symbolDown
  split
  · exact h.congr rfl
  split
  · exact h.congr rfl
  · exact ⟨h.buffer, nofun, h.out⟩

theorem receiveSymbol (sym : Symbol) : RingInUse (receiveSymbol s sym) := by
  have hheard : RingInUse (if sym = .invalid then s else heardSymbol s) := h.congr (by split <;> rfl)
  have htaken : ∀ u : State, RingInUse u →
      RingInUse (if u.link.up then Machine.symbolUp sym u else Machine.symbolDown sym u) := fun u hu => by
    split
    · exact hu.symbolUp sym
    · exact hu.symbolDown sym
  exact htaken _ hheard

omit h in
theorem receiveSymbols (l : List Symbol) : ∀ {s : State}, RingInUse s → RingInUse (receiveSymbols l s) := by
  induction l with
  | nil => exact id
  | cons sym l ih => exact fun hs => ih (hs.receiveSymbol sym)

/-- The link that falls has no frame in reception (R141). -/
theorem linkFalls : RingInUse (linkFalls s) := by
  unfold Machine.linkFalls
  split
  · exact h
  · exact ⟨h.buffer, nofun, h.out⟩

/-! ### Frames that are sent (R147 to R150) -/

/-- A frame that leaves the insertion buffer leaves the others in it (R147, R148). -/
theorem sendForward : RingInUse (sendForward s) := by
  unfold Machine.sendForward
  split
  · exact h
  · rename_i o rest hbuffer
    exact ⟨fun p hp => h.buffer p (hbuffer ▸ List.mem_cons_of_mem o hp), h.reception, h.out⟩

theorem sendOwn : RingInUse (sendOwn s) := by
  unfold Machine.sendOwn
  split
  · exact h.congr rfl
  · exact h

end RingInUse

/-! ### Every command -/

namespace RingLawful

variable {s : State} (h : RingLawful s)
include h

/-- Symbols that come when some time has passed. -/
theorem afterSymbols (dt : Nat) (l : List Symbol) : RingLawful (Machine.unlessReset (receiveSymbols l) (elapse dt s)) :=
  (ringLawful_of_ringPart (ringPart_elapse dt s) h).unlessReset (RingInUse.receiveSymbols l)

/-- Straps are sampled while nothing waits to be forwarded (R3, R153). -/
theorem leaveReset (st : Straps) (hr : s.inReset = true) : RingLawful (leaveReset st s) :=
  ⟨fun o ho => absurd (h.2.2 hr ▸ ho : o ∈ ([] : List (List Byte))) nofun, h.2.1, nofun⟩

/-- A meaning that leaves the law's part alone keeps the law. -/
theorem elsewhere {f : State → State} (hf : ∀ u, (f u).ringPart = u.ringPart) : RingLawful (Machine.unlessReset f s) :=
  h.unlessReset fun hs => hs.congr (hf s)

theorem exec {t : State} (c : Instr) (ht : exec c s = .next t) : RingLawful t := by
  have hlater : ∀ dt, RingLawful (elapse dt s) := fun dt => ringLawful_of_ringPart (ringPart_elapse dt s) h
  cases c <;> cases ht
  case powerOnReset => exact ⟨nofun, nofun, fun _ => rfl⟩
  case pinReset => exact ⟨nofun, nofun, fun _ => rfl⟩
  case resetEnd dt st =>
    split
    · rename_i hr
      exact (ringLawful_of_ringPart (ringPart_reach _ _) (hlater dt)).leaveReset st hr
    · exact hlater dt
  case linkInDown dt => exact (hlater dt).unlessReset RingInUse.linkFalls
  case forwardFrameSend dt => exact (hlater dt).unlessReset RingInUse.sendForward
  case ownFrameSend dt => exact (hlater dt).unlessReset RingInUse.sendOwn
  case fieldRise dt f l fall => exact (hlater dt).elsewhere (ringPart_fieldRises f.val l fall)
  case fieldFall dt f => exact (hlater dt).elsewhere (ringPart_fieldFalls f.val)
  case imageLoaded o => exact h.elsewhere (ringPart_imageLoads o)
  case driveEnd => exact h.elsewhere fun u => ringPart_phaseEnds _ u (ringPart_driveOver _)
  case settleEnd => exact h.elsewhere fun u => ringPart_phaseEnds _ u (ringPart_enterPhase _)
  case listenEnd => exact h.elsewhere fun u => ringPart_phaseEnds _ u (ringPart_listenEnds _ _)
  case dampEnd => exact h.elsewhere fun u => ringPart_phaseEnds _ u (ringPart_dampOver _ _)
  case refreshTimerExpiry => exact h.elsewhere fun u => ringPart_expires _ u ringPart_refreshDue
  case dormantTimerExpiry => exact h.elsewhere fun u => ringPart_expires _ u ringPart_goDormant
  case seekTimerExpiry => exact h.elsewhere fun u => ringPart_expires _ u ringPart_seekDue
  case backoffTimerExpiry => exact h.elsewhere fun u => ringPart_expires _ u ringPart_backoffDue
  case claimTimerExpiry c => exact h.elsewhere (ringPart_claimDue c)
  case deferTimerExpiry c => exact h.elsewhere (ringPart_deferDue c)
  case reportTimerExpiry c => exact h.elsewhere (ringPart_reportDue c)
  case barrierTimerExpiry c => exact h.elsewhere (ringPart_barrierDue c)
  case borderTimerExpiry c => exact h.elsewhere (ringPart_borderDue c)
  case yieldTimerExpiry c => exact h.elsewhere (ringPart_yieldDue c)
  case ageTimerExpiry c => exact h.elsewhere (ringPart_ageDue c)
  case viewTimerExpiry c => exact h.elsewhere (ringPart_viewDue c)
  all_goals exact h.afterSymbols _ _

end RingLawful

/-- Settles O55: only received symbols put frames into the insertion buffer, and those frames have passed the checks. -/
theorem stepsKeepTheRing : Obligations.StepsKeepTheRing := by
  intro s t hs ht
  unfold step at ht
  split at ht
  · cases ht; exact hs
  · rename_i c rest _
    exact RingLawful.exec (s := { s with pending := rest }) (ringLawful_of_ringPart rfl hs) c ht

end Sys2Proof.Machine
end

section
/-! PROOFS. Link-in: the symbols that bring it UP, its silence, and the frames that gather from symbols (R140 to R144, R155). -/

namespace Sys2Proof.Machine

/-! ### Link-in comes UP and goes DOWN (O33) -/

theorem exec_linkInUp {s : State} (dt : Nat) (groups : List Pattern) (hr : s.inReset = false) :
    exec (.linkInUp dt groups) s = .next (receiveSymbols (groups.map classify) (elapse dt s)) := by
  show Host.Outcome.next (unlessReset _ (elapse dt s)) = _
  simp [unlessReset, hr]

theorem receiveSymbols_cons (x : Symbol) (l : List Symbol) (s : State) :
    receiveSymbols (x :: l) s = receiveSymbols l (receiveSymbol s x) := rfl

/-- A DOWN link that has counted n more valid symbols at the present moment (R141). -/
def State.counted (n : Nat) (s : State) : State :=
  { s with link := { s.link with silence := some (s.now + usec 10), count := s.link.count + n } }

/-- A link that the 64th valid symbol in a row has brought UP (R141). -/
def State.broughtUp (s : State) : State :=
  { s with link := { s.link with silence := some (s.now + usec 10), count := 64, up := true, reception := none } }

/-- A valid symbol on a DOWN link is counted; the 64th brings it UP (R141). -/
theorem receiveSymbol_of_down {x : Symbol} {s : State} (hdown : s.link.up = false) (hx : x ≠ .invalid) :
    receiveSymbol s x = if s.link.count + 1 < 64 then s.counted 1 else s.broughtUp := by
  simp only [receiveSymbol, if_neg hx, heardSymbol, hdown, Bool.false_eq_true, if_false, symbolDown]
  split
  · simp only [State.counted, hdown]
  · rfl

/-- Valid symbols in a row on a DOWN link are counted together (R141). -/
theorem receiveSymbols_of_down : ∀ (l : List Symbol) {s : State}, l ≠ [] → s.link.up = false →
    (∀ x ∈ l, x ≠ .invalid) → s.link.count + l.length ≤ 64 →
    receiveSymbols l s = if s.link.count + l.length < 64 then s.counted l.length else s.broughtUp
  | [], _, hne, _, _, _ => absurd rfl hne
  | [x], _, _, hdown, hvalid, _ => receiveSymbol_of_down hdown (hvalid x (List.mem_singleton_self x))
  | x :: y :: l, s, _, hdown, hvalid, hle => by
    obtain ⟨hx, hrest⟩ := List.forall_mem_cons.1 hvalid
    simp only [List.length_cons] at hle
    have hmore : s.link.count + 1 < 64 := by omega
    have hcount : (s.counted 1).link.count = s.link.count + 1 := rfl
    rw [receiveSymbols_cons, receiveSymbol_of_down hdown hx, if_pos hmore,
      receiveSymbols_of_down (y :: l) (s := s.counted 1) (List.cons_ne_nil y l) hdown hrest
        (by rw [hcount, List.length_cons]; omega)]
    simp only [State.counted, State.broughtUp, List.length_cons, Nat.add_assoc, Nat.add_comm 1]

/-- An invalid symbol on a DOWN link sets the count to 0 (R141). -/
theorem receiveSymbol_invalid_of_down {s : State} (hdown : s.link.up = false) :
    receiveSymbol s .invalid = { s with link := { s.link with count := 0 } } := by
  simp [receiveSymbol, hdown, symbolDown]

theorem receiveSymbol_inReset_of_down (x : Symbol) {s : State} (hdown : s.link.up = false) :
    (receiveSymbol s x).inReset = s.inReset := by
  by_cases hx : x = .invalid
  · rw [hx, receiveSymbol_invalid_of_down hdown]
  · rw [receiveSymbol_of_down hdown hx]
    split <;> rfl

/-- Settles O33: the symbols of a list on a DOWN link counted together, one symbol, and the expiry of the silence timer. -/
theorem linkInCountsSymbols : Obligations.LinkInCountsSymbols := by
  intro dt s hr
  refine ⟨fun groups hdown hne hvalid => ?counted, fun g hdown hg => ?invalid, fun g groups t hdown ht => ?oneByOne,
    fun t0 ht0 => ?silent⟩
  case counted =>
    have hall := receiveSymbols_of_down (groups.map classify) (s := elapse dt s) (by simpa using hne) hdown
      (List.forall_mem_map.2 hvalid)
    rw [List.length_map, elapse_link] at hall
    rw [exec_linkInUp dt _ hr]
    refine ⟨fun hlt => ?_, fun heq => ?_⟩
    · rw [hall hlt.le, if_pos hlt]; rfl
    · rw [hall heq.le, if_neg heq.not_lt]; rfl
  case invalid =>
    rw [exec_linkInUp dt _ hr, List.map_singleton, hg]
    exact congrArg Host.Outcome.next (receiveSymbol_invalid_of_down (s := elapse dt s) hdown)
  case oneByOne =>
    rw [exec_linkInUp dt _ hr] at ht
    cases ht
    have hout : (receiveSymbol (elapse dt s) (classify g)).inReset = false :=
      (receiveSymbol_inReset_of_down _ (s := elapse dt s) hdown).trans hr
    rw [exec_linkInUp dt _ hr, List.map_cons, receiveSymbols_cons]
    exact (exec_linkInUp 0 groups hout).symm
  case silent =>
    show Host.Outcome.next (unlessReset linkFalls (elapse dt s)) = _
    simp [unlessReset, hr, linkFalls, ht0, elapse, reach]

/-! ### Frames gathered from symbols (O34) -/

theorem receiveSymbols_append (l l' : List Symbol) (s : State) :
    receiveSymbols (l ++ l') s = receiveSymbols l' (receiveSymbols l s) := List.foldl_append

/-- A valid symbol on an UP link restarts the silence timer before it is taken (R141, R142). -/
theorem receiveSymbol_of_up {x : Symbol} {s : State} (hup : s.link.up = true) (hx : x ≠ .invalid) :
    receiveSymbol s x = symbolUp x (heardSymbol s) := by
  simp [receiveSymbol, hx, heardSymbol, hup]

/-- A further valid symbol at the same moment finds the silence timer as it stands (R141). -/
theorem receiveSymbol_of_heard {x : Symbol} {r : Option (List Byte)} {s : State} (dt : Nat) (hup : s.link.up = true)
    (hx : x ≠ .invalid) :
    receiveSymbol (setReception r (s.heardLink dt)) x = symbolUp x (setReception r (s.heardLink dt)) :=
  receiveSymbol_of_up (s := setReception r (s.heardLink dt)) hup hx

/-- Data symbols and the end symbol after a frame that has been dropped change nothing (R142). -/
theorem receiveSymbols_of_dropped {s : State} (dt : Nat) (hup : s.link.up = true) : ∀ l : List Byte,
    receiveSymbols (l.map .data ++ [.stop]) (s.heardLink dt) = s.heardLink dt
  | [] => receiveSymbol_of_heard (r := none) dt hup nofun
  | b :: l => by
    have hdata : receiveSymbol (s.heardLink dt) (.data b) = s.heardLink dt :=
      receiveSymbol_of_heard (r := none) dt hup nofun
    rw [List.map_cons, List.cons_append, receiveSymbols_cons, hdata]
    exact receiveSymbols_of_dropped dt hup l

/-- A frame of fewer than 5 or more than 24 octets is dropped (R142). -/
theorem receiveOctets_of_bad_length {o : List Byte} {s : State} (dt : Nat) (hup : s.link.up = true)
    (hlen : ¬ (5 ≤ o.length ∧ o.length ≤ 24)) : receiveOctets o (elapse dt s) = s.heardLink dt := by
  have hstart : receiveSymbol (elapse dt s) .start = setReception (some []) (s.heardLink dt) :=
    receiveSymbol_of_up (s := elapse dt s) hup nofun
  have hgather : ∀ l : List Byte, l.length ≤ 24 →
      receiveSymbols (l.map .data) (setReception (some []) (s.heardLink dt)) = setReception (some l) (s.heardLink dt) :=
    fun l hl => receiveSymbols_data l [] (setReception (some []) (s.heardLink dt)) hup rfl rfl (by simpa using hl)
  unfold receiveOctets frameSymbols
  rw [List.cons_append, receiveSymbols_cons, hstart]
  rcases Nat.lt_or_ge 24 o.length with hlong | hshort
  · obtain ⟨b, rest, hrest⟩ : ∃ b rest, o.drop 24 = b :: rest :=
      List.exists_cons_of_length_pos (by rw [List.length_drop]; omega)
    have hfull : receiveSymbol (setReception (some (o.take 24)) (s.heardLink dt)) (.data b) = s.heardLink dt := by
      rw [receiveSymbol_of_heard (x := .data b) dt hup nofun]
      have hlength : (o.take 24).length = 24 := by rw [List.length_take]; omega
      simp [symbolUp, setReception, hlength, State.heardLink]
    rw [← List.take_append_drop 24 o, hrest, List.map_append, List.append_assoc, receiveSymbols_append,
      hgather _ (List.length_take_le ..), List.map_cons, List.cons_append, receiveSymbols_cons, hfull]
    exact receiveSymbols_of_dropped dt hup rest
  · have hfew : ¬ 5 ≤ o.length := fun h5 => hlen ⟨h5, hshort⟩
    rw [receiveSymbols_append, hgather o hshort]
    refine (receiveSymbol_of_heard (x := .stop) dt hup nofun).trans ?_
    simp [symbolUp, setReception, hfew, State.heardLink]

/-- Octets that come with their symbols reach the checks whole, or are dropped for their number (R142). -/
theorem unlessReset_receiveOctets {o : List Byte} {s : State} (dt : Nat) (hr : s.inReset = false) (hup : s.link.up = true) :
    unlessReset (receiveOctets o) (elapse dt s) =
      if 5 ≤ o.length ∧ o.length ≤ 24 then receiveFrame o (s.heardLink dt) else s.heardLink dt := by
  have hout : unlessReset (receiveOctets o) (elapse dt s) = receiveOctets o (elapse dt s) := by
    simp [unlessReset, hr]
  rw [hout]
  split
  · rename_i hlen
    exact receiveOctets_eq_receiveFrame o dt s hup hlen.1 hlen.2
  · rename_i hlen
    exact receiveOctets_of_bad_length dt hup hlen

/-- One code group while a frame is in reception on an UP link (R142). -/
theorem exec_frameReceptionDiscard {s : State} (dt : Nat) (g : Pattern) (hr : s.inReset = false) :
    exec (.frameReceptionDiscard dt [g]) s = .next (receiveSymbol (elapse dt s) (classify g)) := by
  show Host.Outcome.next (unlessReset _ (elapse dt s)) = _
  simp [unlessReset, hr, receiveSymbols]

/-- Settles O34: the symbols of a frame by the number of its octets, and one symbol of each sort after some. -/
theorem framesAreGathered : Obligations.FramesAreGathered := by
  intro dt s hr hup arrives
  have hwhole : ∀ o, arrives o (.next (unlessReset (receiveOctets o) (elapse dt s))) := fun o =>
    congrArg Host.Outcome.next (unlessReset_receiveOctets dt hr hup)
  refine ⟨fun k body => ?_, fun rest => hwhole _, fun rest => hwhole _, fun k rest => hwhole _, fun o => hwhole o,
    fun g o ho => ⟨fun hg => ?dropped, fun hg => ?invalid, fun hg => ?anew⟩⟩
  · rw [exec_command]
    exact hwhole _
  case dropped =>
    have hreception : (heardSymbol (elapse dt s)).link.reception = some o := ho
    have hvalid : classify g ≠ .invalid := by
      rcases hg with hg | ⟨hg, _⟩ | ⟨_, b, hg⟩ <;> rw [hg] <;> nofun
    rw [exec_frameReceptionDiscard dt g hr, receiveSymbol_of_up (s := elapse dt s) hup hvalid]
    rcases hg with hg | ⟨hg, hfew⟩ | ⟨hfull, b, hg⟩
    · simp only [hg, symbolUp, hreception]; rfl
    · simp only [hg, symbolUp, hreception, if_neg (Nat.not_le.2 hfew)]; rfl
    · simp only [hg, symbolUp, hreception, hfull, lt_irrefl, if_false]; rfl
  case invalid =>
    have hreception : (elapse dt s).link.reception = some o := ho
    have hup' : (elapse dt s).link.up = true := hup
    rw [exec_frameReceptionDiscard dt g hr, hg]
    simp only [receiveSymbol, if_true, hup', symbolUp, hreception]
    rfl
  case anew =>
    rw [exec_frameReceptionDiscard dt g hr, hg, receiveSymbol_of_up (x := .start) (s := elapse dt s) hup nofun]
    rfl

end Sys2Proof.Machine
end

section
/-! PROOFS. Link-out: what is sent and when, and what an overflow of the own queue discards (R140, R147 to R152). -/

namespace Sys2Proof.Machine

/-! ### The CRC made (R143) -/

theorem withCrc_length (o : List Byte) : (withCrc o).length = o.length + 2 := by simp [withCrc, bytes2]

theorem crcGood_withCrc (o : List Byte) : crcGood (withCrc o) = true := by
  rw [crcGood_iff, withCrc_length, Nat.add_sub_cancel, withCrc, List.drop_left, List.take_left]

/-- The CRC added leaves the octets before it (R143). -/
theorem withCrc_getElem? {o : List Byte} {k : Nat} (h : k < o.length) : (withCrc o)[k]? = o[k]? :=
  List.getElem?_append_left h

/-! ### Forwarded frames (O42) -/

theorem forwarded_length {o : List Byte} (h : 5 ≤ o.length) : (forwarded o).length = o.length := by
  rw [forwarded, withCrc_length, List.length_set, List.length_take]
  omega

/-- A forwarded octet before the CRC is the one received, but for the hop count (R147). -/
theorem forwarded_getElem? {o : List Byte} {k : Nat} (hk : k + 2 < o.length) :
    (forwarded o)[k]? = if k = 2 then some (byteOf (hopOf o + 1)) else o[k]? := by
  have hcontent : (o.take (o.length - 2)).length = o.length - 2 := by rw [List.length_take]; omega
  rw [forwarded, withCrc_getElem? (by rw [List.length_set, hcontent]; omega), List.getElem?_set, hcontent,
    List.getElem?_take_of_lt (by omega)]
  by_cases h2 : k = 2
  · rw [if_pos h2.symm, if_pos h2, if_pos (by omega)]
  · rw [if_neg (Ne.symm h2), if_neg h2]

/-- The hop count is raised by 1 (R147). -/
theorem hopOf_forwarded {o : List Byte} (h5 : 5 ≤ o.length) (hhop : hopOf o < 255) : hopOf (forwarded o) = hopOf o + 1 := by
  have h2 : (forwarded o)[2]? = some (byteOf (hopOf o + 1)) := (forwarded_getElem? (by omega)).trans (if_pos rfl)
  have hsmall : (hopOf o + 1) % 256 = hopOf o + 1 := by omega
  rw [hopOf, octetAt, List.getD_eq_getElem?_getD, h2, Option.getD_some, byteOf, BitVec.toNat_ofNat]
  exact hsmall

/-! ### The moment of a send (R140, R149, log 18) -/

/-- A frame begins at the first free symbol time that is not before the moment. -/
theorem idlesBefore_first (moment freeAt : Nat) :
    moment ≤ freeAt + symbolTime * idlesBefore moment freeAt ∧
      (idlesBefore moment freeAt = 0 ∨ freeAt + symbolTime * idlesBefore moment freeAt < moment + symbolTime) := by
  unfold idlesBefore symbolTime
  split <;> omega

theorem exec_forwardFrameSend {s : State} (dt : Nat) (hr : s.inReset = false) :
    exec (.forwardFrameSend dt) s = .next (sendForward (elapse dt s)) := by
  show Host.Outcome.next (unlessReset _ (elapse dt s)) = _
  simp [unlessReset, hr]

theorem exec_ownFrameSend {s : State} (dt : Nat) (hr : s.inReset = false) :
    exec (.ownFrameSend dt) s = .next (sendOwn (elapse dt s)) := by
  show Host.Outcome.next (unlessReset _ (elapse dt s)) = _
  simp [unlessReset, hr]

/-- Settles O42: the octets are `forwarded`, the idle symbols `idlesBefore`. -/
theorem forwardedFrameIsSent : Obligations.ForwardedFrameIsSent := by
  intro dt s hr
  rw [exec_forwardFrameSend dt hr]
  refine ⟨fun hempty => ?_, fun o rest hbuffer h5 hhop => ?_⟩
  · have hnone : (elapse dt s).link.buffer = [] := hempty
    rw [sendForward, hnone]
    rfl
  · have hwaits : (elapse dt s).link.buffer = o :: rest := hbuffer
    obtain ⟨hnotBefore, hfirst⟩ := idlesBefore_first (s.now + dt) s.link.freeAt
    refine ⟨forwarded o, idlesBefore (s.now + dt) s.link.freeAt, ?_, forwarded_length h5, crcGood_withCrc _,
      hopOf_forwarded h5 hhop, fun k hk h2 => (forwarded_getElem? hk).trans (if_neg h2), hnotBefore, hfirst⟩
    rw [sendForward, hwaits, ← forwarded_length h5]
    rfl

/-! ### Classes in the own queue (R150, R151) -/

theorem cls_le (f : Frame) : f.cls ≤ 3 := by
  unfold Frame.cls
  cases f.kind <;> decide

/-- A REPORT is of the lowest class, alone (R150). -/
theorem cls_eq_zero_iff (f : Frame) : f.cls = 0 ↔ f.kind = .report := by
  unfold Frame.cls
  cases f.kind <;> decide

/-- The highest class present is the class of a frame that none exceeds. -/
theorem highestClass_eq {l : List Frame} {f : Frame} (hf : f ∈ l) (hmax : ∀ x ∈ l, x.cls ≤ f.cls) :
    highestClass l = f.cls := by
  have h : (0 :: l.map Frame.cls).max? = some f.cls :=
    List.max?_eq_some_iff.2 ⟨List.mem_cons_of_mem _ (List.mem_map_of_mem hf),
      List.forall_mem_cons.2 ⟨Nat.zero_le _, List.forall_mem_map.2 hmax⟩⟩
  rw [List.max?_cons'] at h
  exact Option.some.inj h

/-- The lowest class present is the class of a frame that exceeds none. -/
theorem lowestClass_eq {l : List Frame} {f : Frame} (hf : f ∈ l) (hmin : ∀ x ∈ l, f.cls ≤ x.cls) :
    lowestClass l = f.cls := by
  have h : (3 :: l.map Frame.cls).min? = some f.cls :=
    List.min?_eq_some_iff.2 ⟨List.mem_cons_of_mem _ (List.mem_map_of_mem hf),
      List.forall_mem_cons.2 ⟨cls_le f, List.forall_mem_map.2 hmin⟩⟩
  rw [List.min?_cons'] at h
  exact Option.some.inj h

/-- Of frames of one class the one after frames of other classes is taken out. -/
theorem eraseP_cls {before after : List Frame} {f : Frame} {n : Nat} (hf : f.cls = n) (hbefore : ∀ x ∈ before, x.cls ≠ n) :
    (before ++ f :: after).eraseP (fun x => x.cls == n) = before ++ after := by
  rw [List.eraseP_append_right _ (by simpa using hbefore), List.eraseP_cons_of_pos (by simpa using hf)]

/-! ### Own frames (O43) -/

section
variable {l : Link} {before after : List Frame} {f : Frame} (hown : l.own = before ++ f :: after)
  (hbefore : ∀ x ∈ before, x.cls < f.cls) (hafter : ∀ x ∈ after, x.cls ≤ f.cls)
include hown hbefore hafter

theorem highestClass_own : highestClass l.own = f.cls := by
  rw [hown]
  refine highestClass_eq (by simp) fun x hx => ?_
  rcases List.mem_append.1 hx with hx | hx
  · exact (hbefore x hx).le
  · rcases List.mem_cons.1 hx with rfl | hx
    · exact le_rfl
    · exact hafter x hx

/-- The own queue names first the oldest frame of the highest class (R150). -/
theorem nextOwn_eq : l.nextOwn = some f := by
  rw [Link.nextOwn, highestClass_own hown hbefore hafter, List.find?_eq_some_iff_append]
  refine ⟨by simp, before, after, hown, fun x hx => ?_⟩
  simpa using (hbefore x hx).ne

theorem restOwn_eq : l.restOwn = before ++ after := by
  rw [Link.restOwn, highestClass_own hown hbefore hafter, hown]
  exact eraseP_cls rfl fun x hx => (hbefore x hx).ne

end

/-- No own frame leaves while a frame waits to be forwarded, nor from an empty queue (R149). -/
theorem sendOwn_of_none {s : State} (h : s.link.buffer ≠ [] ∨ s.link.own = []) : sendOwn s = s := by
  have hnone : s.link.own = [] → s.link.nextOwn = none := fun hown => by rw [Link.nextOwn, hown]; rfl
  unfold sendOwn
  split
  · rename_i f hbuffer hnext
    rcases h with h | h
    · exact absurd hbuffer h
    · rw [hnone h] at hnext; cases hnext
  · rfl

/-- The frame the own queue names first leaves it when nothing waits to be forwarded (R149, R150, R152). -/
theorem sendOwn_of_next {s : State} {f : Frame} (hbuffer : s.link.buffer = []) (hnext : s.link.nextOwn = some f) :
    sendOwn s = putOnLine true ((fillDrop s.link.drop f).encode (ownIndex s.straps) 0)
      { s with link := { s.link with own := s.link.restOwn, drop := dropAfter s.link.drop f } } := by
  simp only [sendOwn, hbuffer, hnext]

/-- Settles O43: the own queue names the frame (`nextOwn_eq`), and its moment is that of any frame. -/
theorem ownFrameIsSent : Obligations.OwnFrameIsSent := by
  intro dt s hr
  rw [exec_ownFrameSend dt hr]
  refine ⟨fun h => congrArg Host.Outcome.next (sendOwn_of_none (s := elapse dt s) h),
    fun before f after hbuffer hown hbefore hafter => ?_⟩
  intro sentFrame o'
  have hfilled : sentFrame = fillDrop s.link.drop f := by cases f <;> rfl
  have hnext : (elapse dt s).link.nextOwn = some f := nextOwn_eq hown hbefore hafter
  have hrest : (elapse dt s).link.restOwn = before ++ after := restOwn_eq hown hbefore hafter
  refine ⟨idlesBefore (s.now + dt) s.link.freeAt, ?_, idlesBefore_first (s.now + dt) s.link.freeAt⟩
  rw [sendOwn_of_next (s := elapse dt s) hbuffer hnext, hrest]
  simp only [o', hfilled]
  rfl

/-! ### Overflow (O44) -/

theorem push_of_room {l : Link} (f : Frame) (h : l.own.length < 8) : l.push f = { l with own := l.own ++ [f] } := if_pos h

theorem push_of_full {l : Link} (f : Frame) (h : 8 ≤ l.own.length) :
    l.push f = { l with own := discardOne (l.own ++ [f]), drop := min 255 (l.drop + 1) } := if_neg (Nat.not_lt.2 h)

/-- The oldest frame of the lowest class is discarded (R151). -/
theorem discardOne_eq {before after : List Frame} {f : Frame} (hbefore : ∀ x ∈ before, f.cls < x.cls)
    (hafter : ∀ x ∈ after, f.cls ≤ x.cls) : discardOne (before ++ f :: after) = before ++ after := by
  have hlowest : lowestClass (before ++ f :: after) = f.cls := by
    refine lowestClass_eq (by simp) fun x hx => ?_
    rcases List.mem_append.1 hx with hx | hx
    · exact (hbefore x hx).le
    · rcases List.mem_cons.1 hx with rfl | hx
      · exact le_rfl
      · exact hafter x hx
  rw [discardOne, hlowest]
  exact eraseP_cls rfl fun x hx => (hbefore x hx).ne'

/-- The oldest REPORT is discarded when there is one (R150, R151). -/
theorem discardOne_of_report {before after : List Frame} {f : Frame} (hf : f.kind = .report)
    (hbefore : ∀ x ∈ before, x.kind ≠ .report) : discardOne (before ++ f :: after) = before ++ after := by
  have hzero : f.cls = 0 := (cls_eq_zero_iff f).2 hf
  refine discardOne_eq (fun x hx => ?_) fun x _ => hzero ▸ Nat.zero_le _
  rw [hzero, Nat.pos_iff_ne_zero]
  exact fun h => hbefore x hx ((cls_eq_zero_iff x).1 h)

/-- Settles O44: which of the nine is the oldest of the lowest class (`discardOne_eq`). -/
theorem overflowDiscardsTheLeast : Obligations.OverflowDiscardsTheLeast := by
  intro f l
  refine ⟨push_of_room f, fun hfull => ⟨fun before r after hown hbefore => ?oldReport, fun hnone hf => ?newReport,
    fun _ _ before x after hnine hbefore hafter => ?other⟩⟩
  case oldReport =>
    rw [push_of_full f hfull, hown, List.append_assoc, List.cons_append, discardOne_of_report rfl hbefore,
      ← List.append_assoc]
  case newReport => rw [push_of_full f hfull, discardOne_of_report hf hnone, List.append_nil]
  case other => rw [push_of_full f hfull, hnine, discardOne_eq hbefore hafter]

end Sys2Proof.Machine
end

section
/-! PROOFS. The line code: every code group stands for one symbol, its ones carry the running disparity, and a frame's line bits are received as its octets (O46; R140, R142). -/

namespace Sys2Proof.Machine

/-! ### The blocks of a data code group -/

/-- At either disparity a 6-bit block stands for one value of the five low bits. -/
theorem block6_inj : ∀ p q : Bool, ∀ x < 32, ∀ y < 32, block6 p x = block6 q y → x = y := by decide

/-- The 4-bit block stands after any 6-bit block as after that of 0, but for the alternate code of 7. -/
theorem block4_cases (p : Bool) (x v : Nat) :
    block4 p x v = block4 p 0 v ∨ (v = 7 ∧ block4 p x v = if p then 0b1000 else 0b0111) := by
  have hzero : alternate7 p 0 = false := by cases p <;> rfl
  by_cases h : v = 7 ∧ alternate7 p x = true
  · exact .inr ⟨h.1, by simp [block4, h]⟩
  · have hno : ¬ (v = 7 && alternate7 p x) = true := by simpa using h
    exact .inl (by rw [block4, block4, hzero, if_neg hno]; simp)

/-- After the 6-bit block of 0 a 4-bit block stands for one value of the three high bits, and is no alternate code. -/
theorem block4_zero_inj : ∀ p q : Bool, ∀ v < 8,
    (∀ w < 8, block4 p 0 v = block4 q 0 w → v = w) ∧ block4 p 0 v ≠ 0b1000 ∧ block4 p 0 v ≠ 0b0111 ∧ block4 p 0 v < 16 := by
  decide

/-- At either disparity a 4-bit block stands for one value of the three high bits. -/
theorem block4_inj {p q : Bool} {x y v w : Nat} (hv : v < 8) (hw : w < 8) (h : block4 p x v = block4 q y w) : v = w := by
  obtain ⟨hinj, hv8, hv7, _⟩ := block4_zero_inj p q v hv
  obtain ⟨_, hw8, hw7, _⟩ := block4_zero_inj q p w hw
  rcases block4_cases p x v with hx | ⟨rfl, hx⟩ <;> rcases block4_cases q y w with hy | ⟨rfl, hy⟩
  · exact hinj w hw (hx ▸ hy ▸ h)
  · rw [hx, hy] at h
    cases q
    · exact absurd h hv7
    · exact absurd h hv8
  · rw [hx, hy] at h
    cases p
    · exact absurd h.symm hw7
    · exact absurd h.symm hw8
  · rfl

theorem block4_lt {v : Nat} (hv : v < 8) (p : Bool) (x : Nat) : block4 p x v < 16 := by
  rcases block4_cases p x v with h | ⟨_, h⟩ <;> rw [h]
  · exact (block4_zero_inj p p v hv).2.2.2
  · cases p <;> decide

/-- At either disparity a data code group stands for one octet (R140). -/
theorem dataGroup_inj {p q : Bool} {m n : Nat} (hm : m < 256) (hn : n < 256) (h : dataGroup p m = dataGroup q n) : m = n := by
  simp only [dataGroup] at h
  have hm4 := block4_lt (v := m / 32) (by omega) (disparityAfter 6 (block6 p (m % 32)) p) (m % 32)
  have hn4 := block4_lt (v := n / 32) (by omega) (disparityAfter 6 (block6 q (n % 32)) q) (n % 32)
  have hlow := block6_inj p q (m % 32) (by omega) (n % 32) (by omega) (by omega)
  have hblock : block4 (disparityAfter 6 (block6 p (m % 32)) p) (m % 32) (m / 32) =
      block4 (disparityAfter 6 (block6 q (n % 32)) q) (n % 32) (n / 32) := by omega
  have hhigh := block4_inj (by omega) (by omega) hblock
  omega

/-- The code groups of the special symbols: K28.5, K27.7 and K29.7 at both disparities (R140). -/
def specialGroups : List Nat :=
  [0b0011111010, 0b1100000101, 0b1101101000, 0b0010010111, 0b1011101000, 0b0100010111]

/-- Ten bits sent at a disparity keep it with five ones, and turn it over with one more or one less (R140). -/
abbrev Balances (positive : Bool) (n : Nat) : Prop := n = 5 ∨ (positive = false ∧ n = 6) ∨ (positive = true ∧ n = 4)

theorem dataGroup_blocks_spec : ∀ p : Bool, ∀ x < 32, ∀ v < 8,
    let g := block6 p x * 16 + block4 (disparityAfter 6 (block6 p x) p) x v
    g < 1024 ∧ g ∉ specialGroups ∧ Balances p (ones 10 g) := by
  decide

/-- A data code group has ten bits, is no special symbol's, and balances the disparity (R140). -/
theorem dataGroup_spec (p : Bool) {n : Nat} (hn : n < 256) :
    dataGroup p n < 1024 ∧ dataGroup p n ∉ specialGroups ∧ Balances p (ones 10 (dataGroup p n)) :=
  dataGroup_blocks_spec p (n % 32) (by omega) (n / 32) (by omega)

/-! ### Symbols are recovered from their code groups -/

theorem codeGroup_data_toNat (p : Bool) (b : Byte) : (codeGroup p (.data b)).toNat = dataGroup p b.toNat :=
  (BitVec.toNat_ofNat ..).trans (Nat.mod_eq_of_lt (dataGroup_spec p b.isLt).1)

theorem codeGroup_special : ∀ p : Bool, ∀ x ∈ [Symbol.idle, .start, .stop],
    (codeGroup p x).toNat ∈ specialGroups ∧ classify (codeGroup p x) = x ∧ Balances p (ones 10 (codeGroup p x).toNat) := by
  decide

/-- A data code group is the data code group of its octet alone (R140). -/
theorem dataOf_codeGroup (p : Bool) (b : Byte) : dataOf (codeGroup p (.data b)) = some b := by
  have hfirst : ((List.range 256).find? fun n => (codeGroup p (.data b)).toNat == dataGroup false n ||
      (codeGroup p (.data b)).toNat == dataGroup true n) = some b.toNat := by
    rw [List.find?_range_eq_some, codeGroup_data_toNat]
    refine ⟨by cases p <;> simp, List.mem_range.2 b.isLt, fun j hj => ?_⟩
    have hother : ∀ q, dataGroup p b.toNat ≠ dataGroup q j := fun q h =>
      hj.ne' (dataGroup_inj b.isLt (hj.trans b.isLt) h)
    simp [hother]
  rw [dataOf, hfirst, Option.map_some, BitVec.ofNat_toNat, BitVec.setWidth_eq]

/-- Every valid symbol is recovered from its code group at either disparity (R140). -/
theorem classify_codeGroup (p : Bool) {x : Symbol} (hx : x ≠ .invalid) : classify (codeGroup p x) = x := by
  cases x with
  | invalid => exact absurd rfl hx
  | data b =>
    have hdata : ∀ q, ∀ y ∈ [Symbol.idle, .start, .stop], codeGroup p (.data b) ≠ codeGroup q y := fun q y hy h => by
      have hmem := (codeGroup_special q y hy).1
      rw [← h, codeGroup_data_toNat] at hmem
      exact (dataGroup_spec p b.isLt).2.1 hmem
    simp [classify, hdata, dataOf_codeGroup]
  | _ => exact (codeGroup_special p _ (by simp)).2.1

/-! ### The running disparity -/

/-- The code group of a valid symbol balances the disparity it is sent at (R140). -/
theorem codeGroup_balances (p : Bool) {x : Symbol} (hx : x ≠ .invalid) : Balances p (ones 10 (codeGroup p x).toNat) := by
  cases x with
  | invalid => exact absurd rfl hx
  | data b => rw [codeGroup_data_toNat]; exact (dataGroup_spec p b.isLt).2.2
  | _ => exact (codeGroup_special p _ (by simp)).2.2

/-- The ones in the low bits counted bit by bit. -/
theorem ones_eq_count : ∀ n w : Nat, ones n w = ((List.range n).map w.testBit).count true
  | 0, _ => rfl
  | n + 1, w => by
    have hshift : (List.range n).map (w.testBit ∘ Nat.succ) = (List.range n).map (w / 2).testBit :=
      List.map_congr_left fun k _ => Nat.testBit_succ w k
    rw [ones, List.range_succ_eq_map, List.map_cons, List.map_map, hshift, List.count_cons, ones_eq_count n (w / 2),
      Nat.testBit_zero, Nat.add_comm]
    congr 1
    rcases Nat.mod_two_eq_zero_or_one w with h | h <;> simp [h]

/-- The ones on the line are those of the code group (R140). -/
theorem ones_on_line (g : Pattern) : ((lineBits g).filter id).length = ones 10 g.toNat := by
  have hline : lineBits g = ((List.range 10).map g.toNat.testBit).reverse := rfl
  rw [hline, ← List.countP_eq_length_filter, List.countP_reverse, ones_eq_count, List.count]
  exact List.countP_congr fun b _ => by simp

theorem nextDisparity_eq (p : Bool) (x : Symbol) : nextDisparity p x =
    if ones 10 (codeGroup p x).toNat = 5 then p else decide (5 < ones 10 (codeGroup p x).toNat) := by
  have hfive : ∀ n, 2 * n = 10 ↔ n = 5 := by omega
  have hmore : ∀ n, 10 < 2 * n ↔ 5 < n := by omega
  simp only [nextDisparity, disparityAfter, hfive, hmore]

/-! ### A frame on the line -/

/-- Valid symbols are recovered from the code groups they are sent as (R140). -/
theorem map_classify_codeGroups : ∀ (l : List Symbol) (p : Bool), (∀ x ∈ l, x ≠ .invalid) →
    (codeGroups p l).map classify = l
  | [], _, _ => rfl
  | x :: l, p, h => by
    obtain ⟨hx, hl⟩ := List.forall_mem_cons.1 h
    rw [codeGroups, List.map_cons, classify_codeGroup p hx, map_classify_codeGroups l _ hl]

theorem frameSymbols_valid (o : List Byte) : ∀ x ∈ frameSymbols o, x ≠ .invalid := by
  intro x hx
  simp only [frameSymbols, List.mem_append, List.mem_cons, List.mem_map, List.not_mem_nil, or_false] at hx
  rcases hx with (rfl | ⟨b, _, rfl⟩) | rfl <;> nofun

/-- Settles O46: symbols from code groups, ones against the disparity, and then the symbols of a frame. -/
theorem sentBitsAreReceivedAsOctets : Obligations.SentBitsAreReceivedAsOctets := by
  refine ⟨fun p x => classify_codeGroup p, fun p x hx => ?_, fun f dt s hr => ?_⟩
  · intro n
    have hn : n = ones 10 (codeGroup p x).toNat := ones_on_line _
    rw [hn]
    exact ⟨nextDisparity_eq p x, codeGroup_balances p hx⟩
  · rw [exec_linkInUp dt _ hr, Sent.groups, map_classify_codeGroups _ _ (frameSymbols_valid _)]
    rfl

end Sys2Proof.Machine
end

section
/-! PROOFS. Frames as octets: every field is read back from the place it is written to (O45; R143, R155 to R160). -/

namespace Sys2Proof.Machine

/-! ### Numbers in octets -/

theorem byteOf_toNat (n : Nat) : (byteOf n).toNat = n % 256 := BitVec.toNat_ofNat ..

theorem byteOf_toNat_of_lt {n : Nat} (h : n < 256) : (byteOf n).toNat = n := (byteOf_toNat n).trans (Nat.mod_eq_of_lt h)

/-- A number of two octets is read back from them. -/
theorem two_octets {n : Nat} (h : n < 65536) : (byteOf (n / 256)).toNat * 256 + (byteOf n).toNat = n := by
  simp only [byteOf_toNat]
  omega

/-- A number of three octets is read back from them. -/
theorem three_octets {n : Nat} (h : n < 16777216) :
    ((byteOf (n / 65536)).toNat * 256 + (byteOf (n / 256)).toNat) * 256 + (byteOf n).toNat = n := by
  simp only [byteOf_toNat]
  omega

theorem unsigned16_lt (v : Int) : unsigned16 v < 65536 := by
  unfold unsigned16
  omega

/-- A signed number of two octets is read back in two's complement (R155). -/
theorem signed16_unsigned16 {v : Int} (hlo : -32768 ≤ v) (hhi : v < 32768) : signed16 (unsigned16 v) = v := by
  simp only [signed16, unsigned16, Int.ofNat_eq_natCast]
  split_ifs <;> omega

/-! ### Parts of octets -/

theorem chanIndex_le (c : Chan) : chanIndex c ≤ 1 := by cases c <;> decide

theorem readChan_chanIndex (c : Chan) : readChan (chanIndex c) = some c := by cases c <;> rfl

theorem chanOctet_toNat (c : Chan) : (byteOf (chanIndex c)).toNat = chanIndex c := by cases c <;> rfl

theorem sideValue_le (d : Option Side) : sideValue d ≤ 2 := by rcases d with _ | (_ | _) <;> decide

theorem readSide_sideValue (d : Option Side) : readSide (sideValue d) = some d := by rcases d with _ | (_ | _) <;> rfl

theorem markValue_le (b : Bool) : markValue b ≤ 1 := by cases b <;> decide

theorem markValue_beq_one (b : Bool) : (markValue b == 1) = b := by cases b <;> rfl

/-- The parts of a BORDER's axis-and-marks octet (R160). -/
theorem borderMarks_spec {b : Border} (hcount : b.count ≤ 3) :
    borderMarks b < 256 ∧ (if borderMarks b / 128 = 0 then Axis.X else .Y) = b.axis ∧ borderMarks b / 16 % 4 = b.count ∧
      borderMarks b / 4 % 2 = markValue b.collarAbsent ∧ borderMarks b / 2 % 2 = markValue b.tipClipped ∧
      borderMarks b % 2 = markValue b.collarClipped := by
  have ha := markValue_le b.collarAbsent
  have ht := markValue_le b.tipClipped
  have hk := markValue_le b.collarClipped
  unfold borderMarks
  cases b.axis with
  | X =>
    dsimp only
    exact ⟨by omega, if_pos (by omega), by omega, by omega, by omega, by omega⟩
  | Y =>
    dsimp only
    exact ⟨by omega, if_neg (by omega), by omega, by omega, by omega, by omega⟩

theorem getD_lt {l : List Nat} {n : Nat} (h : ∀ v ∈ l, v < n + 1) (k : Nat) : l.getD k 0 < n + 1 := by
  rw [List.getD_eq_getElem?_getD]
  cases hk : l[k]? with
  | none => exact Nat.succ_pos n
  | some v => exact h v (List.mem_of_getElem? hk)

/-- Three amplitude places are read back (R160). -/
theorem readPlaces_eq {o : List Byte} {l : List Nat} {k : Nat} (hthree : l.length = 3) (h0 : word2 o k = l.getD 0 0)
    (h1 : word2 o (k + 2) = l.getD 1 0) (h2 : word2 o (k + 4) = l.getD 2 0) : readPlaces o k = l := by
  obtain ⟨a, b, c, rfl⟩ := List.length_eq_three.1 hthree
  rw [readPlaces, h0, h1, h2]
  rfl

theorem readTile_of_lt {n : Nat} (h : n < 32) : readTile n = some n := if_pos h

theorem readLevel_of_le {n : Nat} (h : n ≤ 3) : readLevel n = some n := if_pos h

/-! ### The flags field (R158) -/

theorem flagWeight_eq (n : Nat) (b : Bool) : flagWeight n b = 2 ^ n * b.toNat := by cases b <;> simp [flagWeight]

/-- The flags in the order of their bits (R158). -/
def Flags.bits (f : Flags) : Fin 15 → Bool :=
  ![f.tipDown, f.positionHeld, f.pressureHeld, f.tiltHeld, f.tiltLimited, f.edgeX, f.edgeY, f.saturated, f.weak,
    f.disturbed, f.ringFault, f.baselineStale, f.hoverFiltered, f.imageDefaults, f.handover]

theorem toWord_eq_ofBits (f : Flags) : f.toWord = Nat.ofBits f.bits := by
  simp [Flags.toWord, flagWeight_eq, Nat.ofBits, Fin.foldr_succ, Flags.bits]
  omega

theorem toWord_lt (f : Flags) : f.toWord < 65536 := by
  rw [toWord_eq_ofBits]
  exact (Nat.ofBits_lt_two_pow f.bits).trans (by decide)

/-- Every flag is read back from its bit. -/
theorem ofWord_toWord (f : Flags) : Flags.ofWord f.toWord = f := by
  have hbit : ∀ i (hi : i < 15), f.toWord.testBit i = f.bits ⟨i, hi⟩ := fun i hi => by
    rw [toWord_eq_ofBits, Nat.testBit_ofBits_lt _ _ hi]
  simp only [Flags.ofWord, hbit, Nat.reduceLT]
  rfl

/-! ### The fields of each kind read back (R157, R159, R160) -/

section
variable (origin hop : Nat)

theorem readSighting_encode (c : Chan) {n x y : Nat} (hfits : (Frame.sighting c n x y).fits = true) :
    readSighting ((Frame.sighting c n x y).encode origin hop) = some (.sighting c n x y) := by
  simp only [Frame.fits, Bool.and_eq_true, decide_eq_true_eq] at hfits
  obtain ⟨⟨hn, hx⟩, hy⟩ := hfits
  generalize ho : (Frame.sighting c n x y).encode origin hop = o
  have h3 : octetAt o 3 = chanIndex c := ho ▸ chanOctet_toNat c
  have h4 : word3 o 4 = n := ho ▸ three_octets hn
  have h7 : word2 o 7 = x := ho ▸ two_octets hx
  have h9 : word2 o 9 = y := ho ▸ two_octets hy
  rw [readSighting, h3, h4, h7, h9, readChan_chanIndex, Option.map_some]

theorem readLost_encode (c : Chan) {n : Nat} (hfits : (Frame.lost c n).fits = true) :
    readLost ((Frame.lost c n).encode origin hop) = some (.lost c n) := by
  have hn : n < 65536 := by simpa [Frame.fits] using hfits
  generalize ho : (Frame.lost c n).encode origin hop = o
  have h3 : octetAt o 3 = chanIndex c := ho ▸ chanOctet_toNat c
  have h4 : word2 o 4 = n := ho ▸ two_octets hn
  rw [readLost, h3, h4, readChan_chanIndex, Option.map_some]

theorem readTake_encode (c : Chan) {releaser n : Nat} (hfits : (Frame.take c releaser n).fits = true) :
    readTake ((Frame.take c releaser n).encode origin hop) = some (.take c releaser n) := by
  simp only [Frame.fits, Bool.and_eq_true, decide_eq_true_eq] at hfits
  obtain ⟨hreleaser, hn⟩ := hfits
  generalize ho : (Frame.take c releaser n).encode origin hop = o
  have h3 : octetAt o 3 = chanIndex c := ho ▸ chanOctet_toNat c
  have h4 : octetAt o 4 = releaser := ho ▸ byteOf_toNat_of_lt (by omega)
  have h5 : word2 o 5 = n := ho ▸ two_octets hn
  rw [readTake, h3, h4, h5, readChan_chanIndex, readTile_of_lt hreleaser]

theorem readNotice_encode (c : Chan) {n strength : Nat} {wx wy : WantField}
    (hfits : (Frame.notice c n strength wx wy).fits = true) :
    readNotice ((Frame.notice c n strength wx wy).encode origin hop) = some (.notice c n strength wx wy) := by
  simp only [Frame.fits, Bool.and_eq_true, decide_eq_true_eq] at hfits
  obtain ⟨⟨⟨hn, hstrength⟩, hx⟩, hy⟩ := hfits
  have hsx := sideValue_le wx.side
  have hsy := sideValue_le wy.side
  generalize ho : (Frame.notice c n strength wx wy).encode origin hop = o
  have h3 : octetAt o 3 = chanIndex c := ho ▸ chanOctet_toNat c
  have h4 : word2 o 4 = n := ho ▸ two_octets hn
  have h6 : word3 o 6 = strength := ho ▸ three_octets hstrength
  have h9 : octetAt o 9 = sideValue wx.side * 64 + wx.count * 16 + sideValue wy.side * 4 + wy.count :=
    ho ▸ byteOf_toNat_of_lt (by unfold wantsOctet; omega)
  have hxside : octetAt o 9 / 64 = sideValue wx.side := by omega
  have hxcount : octetAt o 9 / 16 % 4 = wx.count := by omega
  have hyside : octetAt o 9 / 4 % 4 = sideValue wy.side := by omega
  have hycount : octetAt o 9 % 4 = wy.count := by omega
  simp only [readNotice, h3, h4, h6, hxside, hxcount, hyside, hycount, readChan_chanIndex, readSide_sideValue]

theorem readBorder_encode {b : Border} (hfits : (Frame.border b).fits = true) :
    readBorder ((Frame.border b).encode origin hop) = some (.border b) := by
  simp only [Frame.fits, Bool.and_eq_true, decide_eq_true_eq, beq_iff_eq, List.all_eq_true] at hfits
  obtain ⟨⟨⟨⟨⟨⟨⟨⟨hholder, hn⟩, hpos⟩, hcount⟩, hfirst⟩, hthree⟩, htip⟩, hthree'⟩, hcollar⟩ := hfits
  obtain ⟨hmarks, haxis, hpart, habsent, htipClipped, hcollarClipped⟩ := borderMarks_spec hcount
  have htipLt := getD_lt htip
  have hcollarLt := getD_lt hcollar
  have hwritten : b.count ≠ 0 := by omega
  generalize ho : (Frame.border b).encode origin hop = o
  have h3 : octetAt o 3 = chanIndex b.ch := ho ▸ chanOctet_toNat b.ch
  have h4 : octetAt o 4 = b.holder := ho ▸ byteOf_toNat_of_lt (by omega)
  have h5 : word2 o 5 = b.cycle := ho ▸ two_octets hn
  have h7 : octetAt o 7 = borderMarks b := ho ▸ byteOf_toNat_of_lt hmarks
  have h8 : word2 o 8 = b.first := ho ▸ two_octets hfirst
  have h10 : readPlaces o 10 = b.tip :=
    ho ▸ readPlaces_eq hthree (two_octets (htipLt 0)) (two_octets (htipLt 1)) (two_octets (htipLt 2))
  have h16 : readPlaces o 16 = b.collar :=
    ho ▸ readPlaces_eq hthree' (two_octets (hcollarLt 0)) (two_octets (hcollarLt 1)) (two_octets (hcollarLt 2))
  simp only [readBorder, h3, h4, h5, h7, h8, h10, h16, hpart, haxis, habsent, htipClipped, hcollarClipped,
    readChan_chanIndex, readTile_of_lt hholder, markValue_beq_one, if_neg hwritten]

theorem readReport_encode {r : Report} (hfits : (Frame.report r).fits = true) :
    readReport ((Frame.report r).encode origin hop) = some (.report r) := by
  simp only [Frame.fits, Bool.and_eq_true, decide_eq_true_eq] at hfits
  obtain ⟨⟨⟨⟨⟨⟨⟨⟨⟨⟨hlevel, hn⟩, hx⟩, hy⟩, hpressure⟩, hxlo⟩, hxhi⟩, hylo⟩, hyhi⟩, hdrop⟩, hoverrun⟩ := hfits
  have hc := chanIndex_le r.ch
  generalize ho : (Frame.report r).encode origin hop = o
  have h3 : octetAt o 3 = chanIndex r.ch * 16 + r.level := ho ▸ byteOf_toNat_of_lt (by omega)
  have hchan : octetAt o 3 / 16 = chanIndex r.ch := by omega
  have hpart : octetAt o 3 % 16 = r.level := by omega
  have h4 : word2 o 4 = r.cycle := ho ▸ two_octets hn
  have h6 : word3 o 6 = r.x := ho ▸ three_octets hx
  have h9 : word3 o 9 = r.y := ho ▸ three_octets hy
  have h12 : word2 o 12 = r.pressure := ho ▸ two_octets hpressure
  have h14 : word2 o 14 = unsigned16 r.tiltX := ho ▸ two_octets (unsigned16_lt r.tiltX)
  have h16 : word2 o 16 = unsigned16 r.tiltY := ho ▸ two_octets (unsigned16_lt r.tiltY)
  have h18 : word2 o 18 = r.flags.toWord := ho ▸ two_octets (toWord_lt r.flags)
  have h20 : octetAt o 20 = r.drop := ho ▸ byteOf_toNat_of_lt hdrop
  have h21 : octetAt o 21 = r.overrun := ho ▸ byteOf_toNat_of_lt hoverrun
  simp only [readReport, hchan, hpart, h4, h6, h9, h12, h14, h16, h18, h20, h21, readChan_chanIndex,
    readLevel_of_le hlevel, signed16_unsigned16 hxlo hxhi, signed16_unsigned16 hylo hyhi, ofWord_toWord]

theorem readYield_encode {y : YieldFields} (hfits : (Frame.yield y).fits = true) :
    readYield ((Frame.yield y).encode origin hop) = some (.yield y) := by
  simp only [Frame.fits, Bool.and_eq_true, decide_eq_true_eq] at hfits
  obtain ⟨⟨⟨⟨⟨htarget, hn⟩, hx⟩, hy⟩, hlevel⟩, hpressure⟩ := hfits
  have hmark := markValue_le y.contact
  generalize ho : (Frame.yield y).encode origin hop = o
  have h3 : octetAt o 3 = chanIndex y.ch := ho ▸ chanOctet_toNat y.ch
  have h4 : octetAt o 4 = y.target := ho ▸ byteOf_toNat_of_lt (by omega)
  have h5 : word2 o 5 = y.cycle := ho ▸ two_octets hn
  have h7 : word3 o 7 = y.x := ho ▸ three_octets hx
  have h10 : word3 o 10 = y.y := ho ▸ three_octets hy
  have h13 : octetAt o 13 = markValue y.contact * 16 + y.level := ho ▸ byteOf_toNat_of_lt (by omega)
  have hcontact : octetAt o 13 / 16 % 2 = markValue y.contact := by omega
  have hpart : octetAt o 13 % 16 = y.level := by omega
  have h14 : word2 o 14 = y.pressure := ho ▸ two_octets hpressure
  simp only [readYield, h3, h4, h5, h7, h10, hcontact, hpart, h14, readChan_chanIndex, readTile_of_lt htarget,
    readLevel_of_le hlevel, markValue_beq_one]

end

/-! ### A whole frame -/

theorem fields_length (f : Frame) : f.fields.length + 5 = kindLength f.kind := by cases f <;> rfl

theorem encode_length (f : Frame) (origin hop : Nat) : (f.encode origin hop).length = kindLength f.kind := by
  rw [Frame.encode, withCrc_length, List.length_append, ← fields_length]
  simp only [List.length_cons, List.length_nil]
  omega

/-- Every fitting frame is read back by its kind's reading. -/
theorem readFrame_encode {f : Frame} (origin hop : Nat) (hfits : f.fits = true) :
    readFrame f.kind (f.encode origin hop) = some f := by
  cases f with
  | sighting c => exact readSighting_encode origin hop c hfits
  | notice c => exact readNotice_encode origin hop c hfits
  | border => exact readBorder_encode origin hop hfits
  | report => exact readReport_encode origin hop hfits
  | yield => exact readYield_encode origin hop hfits
  | take c => exact readTake_encode origin hop c hfits
  | lost c => exact readLost_encode origin hop c hfits
  | restart => rfl

/-- Settles O45: header and CRC for all kinds alike, and then the fields kind by kind. -/
theorem frameRoundTrip : Obligations.FrameRoundTrip := by
  intro f origin hop hfits horigin hhop o
  have hlength : o.length = kindLength f.kind := encode_length f origin hop
  have hkind : octetAt o 0 = kindValue f.kind := by
    show (kindByte f.kind).toNat = _
    cases f.kind <;> rfl
  exact ⟨hlength, (frameKind_eq_some_iff o f.kind).2 ⟨hkind, hlength⟩, byteOf_toNat_of_lt horigin,
    byteOf_toNat_of_lt hhop, crcGood_withCrc _, readFrame_encode origin hop hfits⟩

end Sys2Proof.Machine
end

section
/-! PROOFS. The part held in reset, and the check of the calibration image and the settings taken from it (O3, O6, O7; R143, R161 to R164, R168). -/

namespace Sys2Proof.Machine

/-! ### The part held in reset (R168) -/

/-- Held in reset, a meaning that a reset stops does nothing. -/
theorem unlessReset_of_inReset {s : State} (f : State → State) (hr : s.inReset = true) : unlessReset f s = s := if_pos hr

/-- Nothing but the clock differs between two states, and it has not gone back. -/
def ClockAlone (s t : State) : Prop := ∃ n, s.now ≤ n ∧ t = { s with now := n }

/-- Held in reset, an expiry or the end of a phase does nothing. -/
theorem clockAlone_unlessReset {s : State} (f : State → State) (hr : s.inReset = true) : ClockAlone s (unlessReset f s) :=
  ⟨s.now, le_rfl, unlessReset_of_inReset f hr⟩

/-- Held in reset, an event from outside lets its time pass and does nothing else. -/
theorem clockAlone_unlessReset_elapse {s : State} (f : State → State) (dt : Nat) (hr : s.inReset = true) :
    ClockAlone s (unlessReset f (elapse dt s)) :=
  ⟨s.now + dt, Nat.le_add_right _ _, unlessReset_of_inReset f (s := elapse dt s) hr⟩

/-- Settles O3: every command but the three of reset is stopped by `unlessReset`, at once or when its time has passed. -/
theorem heldInResetNothingRuns : Obligations.HeldInResetNothingRuns := by
  intro c s hr hpower hpin hend
  suffices h : ∃ t, exec c s = .next t ∧ ClockAlone s t by
    obtain ⟨t, ht, n, hn, rfl⟩ := h
    exact ⟨n, hn, ht⟩
  cases c
  case powerOnReset dt => exact absurd rfl (hpower dt)
  case pinReset dt => exact absurd rfl (hpin dt)
  case resetEnd dt st => exact absurd rfl (hend dt st)
  case imageLoaded | driveEnd | settleEnd | listenEnd | dampEnd | refreshTimerExpiry | dormantTimerExpiry | seekTimerExpiry
    | backoffTimerExpiry | claimTimerExpiry | deferTimerExpiry | reportTimerExpiry | barrierTimerExpiry
    | borderTimerExpiry | yieldTimerExpiry | ageTimerExpiry | viewTimerExpiry =>
    exact ⟨_, rfl, clockAlone_unlessReset _ hr⟩
  all_goals exact ⟨_, rfl, clockAlone_unlessReset_elapse _ _ hr⟩

/-! ### The check of the image (R143, R163) -/

theorem crcShift_lt (c : Nat) : crcShift c < 65536 := by
  unfold crcShift
  split
  · omega
  · exact Nat.xor_lt_two_pow (n := 16) (Nat.mod_lt _ (by decide)) (by decide)

/-- A CRC fits in two octets. -/
theorem crcOf_lt (o : List Byte) : crcOf o < 65536 := by
  induction o using List.reverseRecOn with
  | nil => decide
  | append_singleton p v _ =>
    rw [crcOf_append_singleton, ← crcShift8_eq_foldl]
    exact crcShift_lt _

/-- The last two octets are those of a number when the number is read from them. -/
theorem drop_eq_bytes2_iff {o : List Byte} {k v : Nat} (hlength : o.length = k + 2) (hv : v < 65536) :
    o.drop k = bytes2 v ↔ word2 o k = v := by
  obtain ⟨a, b, hlast⟩ : ∃ a b, o.drop k = [a, b] := List.length_eq_two.1 (by rw [List.length_drop]; omega)
  have hword : word2 o k = a.toNat * 256 + b.toNat := by
    have ha : o[k]? = some a := by simpa [hlast] using (List.getElem?_drop (xs := o) (i := k) (j := 0)).symm
    have hb : o[k + 1]? = some b := by simpa [hlast] using (List.getElem?_drop (xs := o) (i := k) (j := 1)).symm
    simp [word2, octetAt, List.getD_eq_getElem?_getD, ha, hb]
  rw [hlast, hword]
  constructor
  · intro h
    obtain ⟨rfl, rfl⟩ : a = byteOf (v / 256) ∧ b = byteOf v := by simpa only [bytes2, List.cons.injEq, and_true] using h
    exact two_octets hv
  · rintro rfl
    have ha : byteOf ((a.toNat * 256 + b.toNat) / 256) = a := BitVec.eq_of_toNat_eq (by rw [byteOf_toNat]; omega)
    have hb : byteOf (a.toNat * 256 + b.toNat) = b := BitVec.eq_of_toNat_eq (by rw [byteOf_toNat]; omega)
    rw [bytes2, ha, hb]

/-- The check of a whole image, by the numbers read from it: its format mark, and the CRC in octets 126 and 127 (R163). -/
theorem imageGood_iff {o : List Byte} (hlength : o.length = 128) :
    imageGood o = true ↔ octetAt o 0 = 84 ∧ word2 o 126 = crcOf (o.take 126) := by
  rw [imageGood, Bool.and_eq_true, beq_iff_eq, crcGood_iff, hlength]
  exact and_congr_right fun _ => drop_eq_bytes2_iff hlength (crcOf_lt _)

/-- All 128 octets of an image are clocked in as they are. -/
theorem clockedIn_of_length {o : List Byte} (hlength : o.length = 128) : clockedIn o = o := by
  refine List.ext_getElem (by simp [clockedIn, hlength]) fun k _ hk => ?_
  simp [clockedIn, List.getElem?_eq_getElem hk]

/-- An image of which no octet is driven reads 255 throughout and fails its check (R162). -/
theorem imageGood_clockedIn_nil : imageGood (clockedIn []) = false := by
  have hmark : octetAt (clockedIn []) 0 = 255 := rfl
  simp [imageGood, hmark]

/-! ### What IMAGE_LOADED leaves in the loader and the settings -/

theorem grant_loader (s : State) : (grant s).loader = s.loader := by
  rcases grant_cases s with ⟨q, _, hg⟩ | ⟨_, _, q, _, hg⟩ | ⟨_, r, q, _, _, _, hg⟩ <;> simp [hg]

theorem grant_settings (s : State) : (grant s).settings = s.settings := by
  rcases grant_cases s with ⟨q, _, hg⟩ | ⟨_, _, q, _, hg⟩ | ⟨_, r, q, _, _, _, hg⟩ <;> simp [hg]

/-- The comparison with the extent leaves loader and settings alone, whatever it then grants (R5, R50). -/
theorem compareExtent_frame (s : State) :
    (compareExtent s).loader = s.loader ∧ (compareExtent s).settings = s.settings := by
  unfold compareExtent
  split
  · exact ⟨rfl, rfl⟩
  · exact ⟨grant_loader _, grant_settings _⟩

/-- At the end of a read, loader and settings are left as the check of the image sets them (R163, R164). -/
theorem exec_imageLoaded_takes {o : List Byte} {s u : State} {ends : Nat} (hr : s.inReset = false)
    (hread : s.loader.readEnds = some ends) (hload : loadImage (clockedIn o) (reach ends s) = u) :
    ∃ t, exec (.imageLoaded o) s = .next t ∧ t.loader = u.loader ∧ t.settings = u.settings :=
  ⟨_, hload ▸ exec_imageLoaded_of_reading o hr hread, compareExtent_frame u⟩

/-! ### Trims and dead loops of a good image (R161, R164) -/

theorem trimOf_settingsOf (o : List Byte) {n : Nat} (hn : n < 80) : trimOf (settingsOf o) n = 896 + octetAt o (29 + n) := by
  simp [trimOf, settingsOf, imageTrims, hn]

/-- A loop is in a dead-loop list after another has joined it: it was there, or it is the other and below 80 (R52, R164). -/
theorem mem_addDead {l : List Nat} {n m : Nat} : m ∈ addDead l n ↔ m ∈ l ∨ (m < 80 ∧ m = n) := by
  unfold addDead
  split
  · rename_i hpassed
    refine ⟨.inl, fun h => h.elim id ?_⟩
    rintro ⟨hm, rfl⟩
    rcases hpassed with hbig | hheld
    · omega
    · exact List.contains_iff_mem.1 hheld
  · rename_i hjoins
    have hn : n < 80 := Nat.lt_of_not_le fun hbig => hjoins (.inl hbig)
    rw [List.mem_append, List.mem_singleton]
    exact or_congr_right ⟨fun h => ⟨h ▸ hn, h⟩, And.right⟩

/-- The loops in a dead-loop list that others have joined. -/
theorem mem_foldl_addDead {m : Nat} : ∀ (ns : List Nat) {l : List Nat},
    m ∈ ns.foldl addDead l ↔ m ∈ l ∨ (m < 80 ∧ m ∈ ns)
  | [], l => by simp
  | n :: ns, l => by
    rw [List.foldl_cons, mem_foldl_addDead ns, mem_addDead, List.mem_cons]
    tauto

theorem deadLoop_settingsOf (o : List Byte) (n : Nat) :
    deadLoop (settingsOf o) n = true ↔ n < 80 ∧ ∃ k, k < 8 ∧ octetAt o (109 + k) = n := by
  have hmem : deadLoop (settingsOf o) n = true ↔ n ∈ imageDead o := List.contains_iff_mem
  rw [hmem, imageDead, mem_foldl_addDead]
  simp

theorem settingsOf_dead_nodup (o : List Byte) : (settingsOf o).dead.Nodup :=
  (deadListed_foldl_addDead _ ⟨List.nodup_nil, nofun⟩).1.1

/-- Settles O6: the image passes its check (`imageGood_iff`), and each field of `settingsOf` is its octets clamped. -/
theorem goodImageIsClampedIntoUse : Obligations.GoodImageIsClampedIntoUse := by
  intro o s t0 hr hread hlength hmark hcrc
  have hwhole : clockedIn o = o := clockedIn_of_length hlength
  have hgood : imageGood (clockedIn o) = true := hwhole.symm ▸ (imageGood_iff hlength).2 ⟨hmark, hcrc⟩
  obtain ⟨t, ht, hloader, hsettings⟩ := exec_imageLoaded_takes hr hread (if_pos hgood)
  rw [hwhole] at hloader hsettings
  refine ⟨t, ht, hloader, ?_⟩
  rw [hsettings]
  exact ⟨clampNat_eq (by omega) _, clampNat_eq (by omega) _, bne_iff_ne, rfl, clampNat_eq (by omega) _,
    clampNat_eq (by omega) _, Nat.mul_comm .., Nat.mul_comm .., Nat.mul_comm .., Nat.mul_comm ..,
    clampNat_eq (by omega) _, clampInt_eq (by omega) _, clampNat_eq (by omega) _, clampInt_eq (by omega) _,
    clampNat_eq (by omega) _, clampNat_eq (by omega) _, rfl, fun _ => trimOf_settingsOf o, deadLoop_settingsOf o,
    settingsOf_dead_nodup o⟩

/-! ### The default image (R161, R163) -/

theorem trimOf_defaultSettings {n : Nat} (hn : n < 80) : trimOf Config.defaultSettings n = 1024 := by
  rw [trimOf, Config.defaultSettings, List.getD_replicate _ hn]

/-- Settles O7: a whole image with a bad mark or CRC, and one that nothing drove, fail the check. -/
theorem badImageGivesTheDefaults : Obligations.BadImageGivesTheDefaults := by
  intro o s t0 hr hread himage
  have hbad : ¬ imageGood (clockedIn o) = true := by
    rcases himage with ⟨hlength, hfails⟩ | rfl
    · rw [clockedIn_of_length hlength, imageGood_iff hlength]
      exact not_and_or.2 hfails
    · exact Bool.eq_false_iff.1 imageGood_clockedIn_nil
  obtain ⟨t, ht, hloader, hsettings⟩ := exec_imageLoaded_takes hr hread (if_neg hbad)
  refine ⟨t, ht, hloader, ?_⟩
  rw [hsettings]
  exact ⟨rfl, rfl, rfl, rfl, rfl, rfl, rfl, rfl, rfl, rfl, rfl, rfl, rfl, rfl, rfl, rfl, rfl,
    fun _ => trimOf_defaultSettings, rfl⟩

end Sys2Proof.Machine
end

section
/-! PROOFS. What a command does once its moment has come leaves the waiting commands and the clock alone (logs 1 and 2). -/

namespace Sys2Proof.Machine

/-- Of two states, the same commands wait and the clock shows the same. -/
@[simp, reducible] def SameMoment (s t : State) : Prop := t.pending = s.pending ∧ t.now = s.now

/-! ### Leaving a state and seeking (R93 to R103, R120) -/

@[simp] theorem beginPass_sameMoment (s : State) : SameMoment s (beginPass s).1 := by
  unfold beginPass; split <;> simp

@[simp] theorem abandonPass_sameMoment (c : Chan) (s : State) : SameMoment s (abandonPass c s) := by
  unfold abandonPass; split
  · split <;> simp
  · simp

@[simp] theorem abandonCycle_sameMoment (c : Chan) (s : State) : SameMoment s (abandonCycle c s) := by
  simp [abandonCycle]

@[simp] theorem leaveState_sameMoment (c : Chan) (s : State) : SameMoment s (leaveState c s) := by
  unfold leaveState; split <;> simp

@[simp] theorem enterSeek_sameMoment (c : Chan) (s : State) : SameMoment s (enterSeek c s).1 := by
  simp only [enterSeek]; split <;> simp

@[simp] theorem moveTo_sameMoment (c : Chan) (st : ChanState) (s : State) : SameMoment s (moveTo c st s) := by
  simp [moveTo]

@[simp] theorem standBy_sameMoment (c : Chan) (n : Nat) (s : State) : SameMoment s (standBy c n s) :=
  moveTo_sameMoment ..

@[simp] theorem deferTo_sameMoment (c : Chan) (s : State) : SameMoment s (deferTo c s) := moveTo_sameMoment ..

@[simp] theorem find_sameMoment (c : Chan) (n x y : Nat) (s : State) : SameMoment s (find c n x y s) := by
  simp [find]

@[simp] theorem nextGroup_sameMoment (c : Chan) (pos : Nat) (s : State) : SameMoment s (nextGroup c pos s).1 := by
  unfold nextGroup; split <;> simp

@[simp] theorem seekXResult_sameMoment (c : Chan) (w pos : Nat) (s : State) :
    SameMoment s (seekXResult c w pos s).1 := by
  simp only [seekXResult]; split <;> simp

@[simp] theorem seekYResult_sameMoment (c : Chan) (w pos g p n posY : Nat) (s : State) :
    SameMoment s (seekYResult c w pos g p n posY s).1 := by
  simp only [seekYResult]; split
  · simp
  · split <;> simp

@[simp] theorem seekResult_sameMoment (c : Chan) (seq : Sequence) (s : State) : SameMoment s (seekResult c seq s).1 := by
  unfold seekResult; split
  · split
    · simp
    split
    · simp
    split <;> simp
  · simp

/-! ### Holding (R105, R111 to R120, R126 to R131, R137) -/

@[simp] theorem startCycle_sameMoment (c : Chan) (s : State) : SameMoment s (startCycle c s) := by
  unfold startCycle; split <;> simp

@[simp] theorem startFirst_sameMoment (c : Chan) (s : State) : SameMoment s (startFirst c s) := by
  unfold startFirst; split <;> simp

@[simp] theorem enterHold_sameMoment (c : Chan) (pen : Pen) (level n first : Nat) (byTake : Bool) (s : State) :
    SameMoment s (enterHold c pen level n first byTake s) := by
  simp [enterHold]

@[simp] theorem decideClaim_sameMoment (c : Chan) (cl : Claim) (s : State) : SameMoment s (decideClaim c cl s) := by
  unfold decideClaim; split <;> simp

@[simp] theorem takePen_sameMoment (origin : Nat) (y : YieldFields) (s : State) : SameMoment s (takePen origin y s) := by
  simp [takePen]

@[simp] theorem reachBarrier_sameMoment (c : Chan) (fault : Bool) (s : State) :
    SameMoment s (reachBarrier c fault s).1 := by
  simp [reachBarrier]

@[simp] theorem yieldTest_sameMoment (c : Chan) (ct : Contents) (n k : Nat) (s : State) :
    SameMoment s (yieldTest c ct n k s) := by
  unfold yieldTest; split
  · simp
  · split <;> simp

@[simp] theorem finishCycle_sameMoment (c : Chan) (ct : Contents) (disturbed lost : Bool) (s : State) :
    SameMoment s (finishCycle c ct disturbed lost s).1 := by
  unfold finishCycle; split
  · split
    · cases lost <;> simp [loseChannel]
    · simp
  · simp

@[simp] theorem endBorderWait_sameMoment (c : Chan) (s : State) : SameMoment s (endBorderWait c s).1 := by
  unfold endBorderWait; split <;> simp

@[simp] theorem endHeld_sameMoment (c : Chan) (s : State) : SameMoment s (endHeld c s).1 := by
  unfold endHeld; split <;> simp

@[simp] theorem beginBorderWait_sameMoment (c : Chan) (s : State) : SameMoment s (beginBorderWait c s).1 := by
  simp only [beginBorderWait]; split
  · split <;> simp
  · simp

@[simp] theorem tipResult_sameMoment (c : Chan) (seq : Sequence) (s : State) : SameMoment s (tipResult c seq s).1 := by
  unfold tipResult; split
  · split
    · simp
    split
    · simp
    split <;> simp
  · simp

@[simp] theorem collarResult_sameMoment (c : Chan) (seq : Sequence) (s : State) :
    SameMoment s (collarResult c seq s).1 := by
  unfold collarResult; split
  · split
    · simp
    split <;> simp
  · simp

@[simp] theorem abandonedEnds_sameMoment (c : Chan) (s : State) : SameMoment s (abandonedEnds c s) := by
  simp only [abandonedEnds]; split
  · split <;> simp
  · simp

/-! ### Arming and captures (R30, R117, R121 to R124) -/

@[simp] theorem considerArming_sameMoment (c : Chan) (origin n : Nat) (wx wy : WantField) (s : State) :
    SameMoment s (considerArming c origin n wx wy s) := by
  unfold considerArming; split <;> simp

@[simp] theorem completeArming_sameMoment (c : Chan) (a : Arming) (s : State) : SameMoment s (completeArming c a s) := by
  unfold completeArming; split <;> simp

@[simp] theorem captureResult_sameMoment (c : Chan) (k : Coil) (seq : Sequence) (s : State) :
    SameMoment s (captureResult c k seq s) := by
  unfold captureResult; split
  · split
    · simp
    split <;> simp
  · simp

@[simp] theorem ageOut_sameMoment (c : Chan) (a : Arming) (s : State) : SameMoment s (ageOut c a s) := by
  unfold ageOut; split <;> simp

@[simp] theorem takeBorder_sameMoment (origin : Nat) (b : Border) (s : State) :
    SameMoment s (takeBorder origin b s).1 := by
  unfold takeBorder; split
  · simp only; split
    · split <;> simp
    · simp
  · simp

@[simp] theorem onBorder_sameMoment (origin : Nat) (b : Border) (s : State) : SameMoment s (onBorder origin b s).1 := by
  unfold onBorder; split <;> simp

/-! ### Received copies and returns (R102 to R108, R114, R128 to R138, R167) -/

@[simp] theorem becomeActive_sameMoment (s : State) : SameMoment s (becomeActive s).1 := by
  simp only [becomeActive]; split <;> simp

@[simp] theorem softRestart_sameMoment (s : State) : SameMoment s (softRestart s).1 := by
  have hcommon : SameMoment s (restartCommon s) := by simp [restartCommon, restartChannel, restartEngine]
  unfold softRestart; split
  · exact hcommon
  · simpa using hcommon

@[simp] theorem holderHeard_sameMoment (c : Chan) (origin : Nat) (s : State) : SameMoment s (holderHeard c origin s) := by
  have hduel : SameMoment s (duel c origin s) := by unfold duel; split <;> simp
  unfold holderHeard; split <;> simp [hduel]

@[simp] theorem penEffect_sameMoment (origin : Nat) (f : Frame) (s : State) : SameMoment s (penEffect origin f s).1 := by
  cases f with
  | sighting c => simp only [penEffect, onSighting]; split <;> simp
  | notice => simp [penEffect, onNotice]
  | border | report | restart => simp [penEffect]
  | yield =>
    simp only [penEffect, onYield]; split
    · split <;> simp
    · simp
  | take => simp only [penEffect, onTake]; split <;> simp
  | lost =>
    simp only [penEffect, onLost]; split
    · simp
    · split <;> simp
    · simp

@[simp] theorem onCopy_sameMoment (origin : Nat) (f : Frame) (s : State) : SameMoment s (onCopy origin f s).1 := by
  unfold onCopy; split
  · simp
  · split <;> simp
  · split <;> simp [penFrame]
  · simp

@[simp] theorem onReturn_sameMoment (k : Kind) (o : List Byte) (s : State) : SameMoment s (onReturn k o s).1 := by
  unfold onReturn; split
  · unfold noticeReturns; split
    · split
      · split <;> simp
      · simp
    · simp
  · unfold sightingReturns; split <;> simp
  · simp

/-! ### The engine and the arbiter (R16 to R35) -/

@[simp] theorem fieldFalls_sameMoment (f : Nat) (s : State) : SameMoment s (fieldFalls f s) := by
  unfold fieldFalls; split
  · unfold fallReported; split
    · split <;> simp
    · simp
  · simp

@[simp] theorem grant_sameMoment (s : State) : SameMoment s (grant s) := by
  rcases grant_cases s with ⟨q, _, hg⟩ | ⟨_, _, q, _, hg⟩ | ⟨_, r, q, _, _, _, hg⟩ <;> simp [hg]

@[simp] theorem submit_sameMoment (r : Option Request) (s : State) : SameMoment s (submit r s) := by
  cases r <;> simp [submit]

@[simp] theorem settleReaction_sameMoment (r : Reaction) : SameMoment r.1 (settleReaction r) := submit_sameMoment ..

@[simp] theorem baselineResult_sameMoment (slot : Nat) (seq : Sequence) (s : State) :
    SameMoment s (baselineResult slot seq s).1 := by
  unfold baselineResult; split
  · simp
  split
  · simp only [sweepResult]; split <;> simp
  · simp

@[simp] theorem conclude_sameMoment (seq : Sequence) (s : State) : SameMoment s (conclude seq s).1 := by
  unfold conclude; split
  · unfold discard; split <;> simp
  · unfold deliver; split <;> simp

@[simp] theorem endSequence_sameMoment (seq : Sequence) (fall : Option Freq) (s : State) :
    SameMoment s (endSequence seq fall s) := by
  cases fall <;> simp [endSequence, fallFirst]

@[simp] theorem listenOver_sameMoment (seq : Sequence) (fall : Option Freq) (s : State) :
    SameMoment s (listenOver seq fall s) := by
  unfold listenOver; split <;> simp [enterDamp]

@[simp] theorem riseReported_sameMoment (f : Nat) (l : Sampled) (fall : Option Freq) (s : State) :
    SameMoment s (riseReported f l fall s) := by
  unfold riseReported; split
  · split
    · split <;> simp
    · simp
  · simp

theorem fieldRises_sameMoment (f : Nat) (l : Sampled) (fall : Option Freq) (s : State) :
    SameMoment s (fieldRises f l fall s) := by
  unfold fieldRises; split <;> simp

theorem driveOver_sameMoment (foreign : Bool) (seq : Sequence) (s : State) : SameMoment s (driveOver foreign seq s) := by
  cases foreign <;> simp [driveOver]

theorem listenEnds_sameMoment (v : List Period) (fall : Option Freq) (seq : Sequence) (s : State) :
    SameMoment s (listenEnds v fall seq s) := by
  simp [listenEnds]

theorem dampOver_sameMoment (foreign : Bool) (fall : Option Freq) (seq : Sequence) (s : State) :
    SameMoment s (dampOver foreign fall seq s) := by
  simp [dampOver]

@[simp] theorem compareExtent_sameMoment (s : State) : SameMoment s (compareExtent s) := by
  unfold compareExtent; split <;> simp

/-! ### Symbols on link-in (R141 to R148) -/

@[simp] theorem receiveFrame_sameMoment (o : List Byte) (s : State) : SameMoment s (receiveFrame o s) := by
  have hreturns : SameMoment s (ownReturns o s) := by unfold ownReturns; split <;> simp
  have hcopy : ∀ u : State, SameMoment u (handCopy o u) := fun u => by
    unfold handCopy; split
    · simp
    split
    · simp
    split <;> simp
  unfold receiveFrame; split
  · simp
  split
  · exact hreturns
  split
  · simp
  split
  · simp
  · simpa using hcopy { s with link := { s.link with buffer := s.link.buffer ++ [o] } }

@[simp] theorem symbolUp_sameMoment (sym : Symbol) (s : State) : SameMoment s (symbolUp sym s) := by
  unfold symbolUp; split
  case h_2 | h_3 => split <;> simp
  all_goals simp

@[simp] theorem symbolDown_sameMoment (sym : Symbol) (s : State) : SameMoment s (symbolDown sym s) := by
  unfold symbolDown; split
  · simp
  · split <;> simp

@[simp] theorem receiveSymbol_sameMoment (s : State) (sym : Symbol) : SameMoment s (receiveSymbol s sym) := by
  have htaken : ∀ u : State, SameMoment s u → SameMoment s (if u.link.up then symbolUp sym u else symbolDown sym u) := by
    intro u hu
    split <;> simpa using hu
  exact htaken _ (by split <;> simp)

theorem receiveSymbols_sameMoment (l : List Symbol) : ∀ s : State, SameMoment s (receiveSymbols l s) := by
  induction l with
  | nil => exact fun s => ⟨rfl, rfl⟩
  | cons sym l ih =>
    intro s
    rw [receiveSymbols_cons]
    simpa using ih (receiveSymbol s sym)

end Sys2Proof.Machine
end

section
/-! PROOFS. One step, and every command: it completes, leaves the waiting commands alone and never turns the clock back (O1, O2; logs 1 and 2). -/

namespace Sys2Proof.Machine

/-! ### One step (log 1) -/

/-- Settles O1: both clauses are the two branches of `step`. -/
theorem stepRunsTheFrontCommand : Obligations.StepRunsTheFrontCommand := by
  refine ⟨fun c rest s hfront => ?_, fun s hempty => ?_⟩
  · simp [step, hfront]
  · simp [step, hempty]

/-! ### What lets time pass -/

/-- From one state to another the same commands wait and the clock has not gone back. -/
@[simp, reducible] def Onward (s t : State) : Prop := t.pending = s.pending ∧ s.now ≤ t.now

theorem SameMoment.onward {s t : State} (h : SameMoment s t) : Onward s t := by
  obtain ⟨hpending, hnow⟩ := h
  exact ⟨hpending, hnow.ge⟩

/-- A moment in which all else happens at once is reached. -/
theorem SameMoment.onward_of_reach {n : Nat} {s t : State} (h : SameMoment (reach n s) t) : Onward s t := by
  obtain ⟨hpending, hnow⟩ := h
  exact ⟨hpending, hnow ▸ Nat.le_max_left ..⟩

theorem expires_onward {timer : Option Nat} {f : Nat → State → State} (hf : ∀ t u, SameMoment u (f t u)) (s : State) :
    Onward s (expires timer f s) := by
  cases timer with
  | none => simp [expires]
  | some t => exact (hf t _).onward_of_reach

theorem phaseEnds_onward {ph : Phase} {f : Sequence → State → State} (hf : ∀ seq u, SameMoment u (f seq u)) (s : State) :
    Onward s (phaseEnds ph f s) := by
  unfold phaseEnds; split
  · split
    · exact (hf _ _).onward_of_reach
    · simp
  · simp

theorem imageLoads_onward (o : List Byte) (s : State) : Onward s (imageLoads o s) := by
  unfold imageLoads; split <;> simp

theorem claimDue_onward (c : Chan) (s : State) : Onward s (claimDue c s) := by
  unfold claimDue; split <;> simp

theorem deferDue_onward (c : Chan) (s : State) : Onward s (deferDue c s) := by
  unfold deferDue; split <;> simp

theorem reportDue_onward (c : Chan) (s : State) : Onward s (reportDue c s) := by
  unfold reportDue; split
  · simp
  simp only; split
  · split <;> simp
  · simp

theorem barrierDue_onward (c : Chan) (s : State) : Onward s (barrierDue c s) := by
  unfold barrierDue; split
  · exact expires_onward (by simp) s
  · simp

theorem borderDue_onward (c : Chan) (s : State) : Onward s (borderDue c s) := by
  unfold borderDue; split
  · exact expires_onward (by simp) s
  · simp

theorem yieldDue_onward (c : Chan) (s : State) : Onward s (yieldDue c s) := by
  unfold yieldDue; split <;> simp

theorem ageDue_onward (c : Chan) (s : State) : Onward s (ageDue c s) := by
  unfold ageDue; split <;> simp

theorem viewDue_onward (c : Chan) (s : State) : Onward s (viewDue c s) := by
  unfold viewDue; split <;> simp

theorem linkFalls_onward (s : State) : Onward s (linkFalls s) := by
  unfold linkFalls; split <;> simp

/-- A frame begins at the clock or later (R140, R149, log 18). -/
theorem Onward.putOnLine {s t : State} (h : Onward s t) (own : Bool) (o : List Byte) : Onward s (putOnLine own o t) := by
  obtain ⟨hpending, hnow⟩ := h
  exact ⟨hpending, hnow.trans (idlesBefore_first t.now t.link.freeAt).1⟩

theorem sendForward_onward (s : State) : Onward s (sendForward s) := by
  unfold sendForward; split
  · simp
  · exact Onward.putOnLine ⟨rfl, le_rfl⟩ ..

theorem sendOwn_onward (s : State) : Onward s (sendOwn s) := by
  unfold sendOwn; split
  · exact Onward.putOnLine ⟨rfl, le_rfl⟩ ..
  · simp

/-! ### Every command -/

theorem unlessReset_onward {f : State → State} (hf : ∀ u, Onward u (f u)) (s : State) : Onward s (unlessReset f s) := by
  unfold unlessReset; split
  · simp
  · exact hf s

/-- An event from outside lets its time pass first. -/
theorem unlessReset_elapse_onward {f : State → State} (hf : ∀ u, Onward u (f u)) (dt : Nat) (s : State) :
    Onward s (unlessReset f (elapse dt s)) := by
  obtain ⟨hpending, hnow⟩ := unlessReset_onward hf (elapse dt s)
  exact ⟨hpending, (Nat.le_add_right ..).trans hnow⟩

/-- Settles O2: a command is `unlessReset` of a meaning that goes onward, at once or when its time has passed; only the three of reset are not. -/
theorem everyCommandCompletes : Obligations.EveryCommandCompletes := by
  intro c s
  have hreset : ∀ dt ends, Onward s (enterReset ends (elapse dt s)) := fun dt ends => ⟨rfl, Nat.le_add_right ..⟩
  cases c <;> refine ⟨_, rfl, ?_⟩
  case powerOnReset dt => exact hreset dt _
  case pinReset dt => exact hreset dt _
  case resetEnd dt st => split <;> simp [leaveReset]
  case imageLoaded o => exact unlessReset_onward (imageLoads_onward o) s
  case driveEnd foreign => exact unlessReset_onward (phaseEnds_onward (driveOver_sameMoment foreign)) s
  case settleEnd => exact unlessReset_onward (phaseEnds_onward (by simp)) s
  case listenEnd v fall => exact unlessReset_onward (phaseEnds_onward (listenEnds_sameMoment v fall)) s
  case dampEnd foreign fall => exact unlessReset_onward (phaseEnds_onward (dampOver_sameMoment foreign fall)) s
  case fieldRise dt f l fall => exact unlessReset_elapse_onward (fun u => (fieldRises_sameMoment f.val l fall u).onward) dt s
  case fieldFall dt f => exact unlessReset_elapse_onward (fun u => (fieldFalls_sameMoment f.val u).onward) dt s
  case refreshTimerExpiry => exact unlessReset_onward (fun u => expires_onward (by simp [refreshDue]) u) s
  case dormantTimerExpiry => exact unlessReset_onward (fun u => expires_onward (by simp [goDormant]) u) s
  case seekTimerExpiry => exact unlessReset_onward (fun u => expires_onward (by simp [seekDue]) u) s
  case backoffTimerExpiry => exact unlessReset_onward (fun u => expires_onward (by simp [backoffDue]) u) s
  case claimTimerExpiry c => exact unlessReset_onward (claimDue_onward c) s
  case deferTimerExpiry c => exact unlessReset_onward (deferDue_onward c) s
  case reportTimerExpiry c => exact unlessReset_onward (reportDue_onward c) s
  case barrierTimerExpiry c => exact unlessReset_onward (barrierDue_onward c) s
  case borderTimerExpiry c => exact unlessReset_onward (borderDue_onward c) s
  case yieldTimerExpiry c => exact unlessReset_onward (yieldDue_onward c) s
  case ageTimerExpiry c => exact unlessReset_onward (ageDue_onward c) s
  case viewTimerExpiry c => exact unlessReset_onward (viewDue_onward c) s
  case linkInDown dt => exact unlessReset_elapse_onward linkFalls_onward dt s
  case forwardFrameSend dt => exact unlessReset_elapse_onward sendForward_onward dt s
  case ownFrameSend dt => exact unlessReset_elapse_onward sendOwn_onward dt s
  all_goals exact unlessReset_elapse_onward (fun u => (receiveSymbols_sameMoment _ u).onward) _ s

end Sys2Proof.Machine
end
